-- ==== Sys2Proof/Word.lean ====
section
/-!
DEFINITION. The widths of the values of chip8_interpreter (spec `00_scope.md` R6, R10, R11): every value of the machine is an
unsigned number of a stated width, so each is a bit vector of that width and its arithmetic is the bit vector's own (it wraps).
-/

namespace Sys2Proof

/-- A register selector: the 4-bit fields `X` and `Y` (R10, R62). Every value names one of V0 to VF (R20). -/
abbrev Reg := BitVec 4

/-- A 4-bit immediate or sub-opcode: the fields `F` and `N` of R10. -/
abbrev Nibble := BitVec 4

/-- A general register, a memory byte, a timer, the immediate `NN` (R6: REG_W = 8). -/
abbrev Byte := BitVec 8

/-- The 12-bit address immediate `NNN` (R10). -/
abbrev Addr12 := BitVec 12

/-- `I`, `pc`, a stack entry, `opcode`, an instruction word (R6: I_W, PC_W, INSN_W = 16). -/
abbrev Word := BitVec 16

/-- `VF`, register 15, which doubles as the flag (R21). -/
abbrev VF : Reg := 0xF#4

/-- `V0`, the offset register of `BNNN` (R83). -/
abbrev V0 : Reg := 0x0#4

end Sys2Proof
end

