-- ==== Sys2Proof/Syntax.lean ====
section
/-!
DEFINITION. The 34 instructions of `30_encoding.md` R64, one constructor per row of the opcode table, in the table's order.
Each operand has exactly the width the spec gives its field (R10, R62), so no term has an operand out of range.
-/

namespace Sys2Proof

/-- An instruction of chip8_interpreter. The pattern and the table's mnemonic stand beside each constructor. -/
inductive Instr where
  /-- `00E0` CLS (R115) -/
  | cls
  /-- `00EE` RET (R80) -/
  | ret
  /-- `1NNN` JP (R81) -/
  | jp (nnn : Addr12)
  /-- `2NNN` CALL (R82) -/
  | call (nnn : Addr12)
  /-- `3XNN` SE_VX_NN (R84) -/
  | seVxNn (x : Reg) (nn : Byte)
  /-- `4XNN` SNE_VX_NN (R85) -/
  | sneVxNn (x : Reg) (nn : Byte)
  /-- `5XY0` SE_VX_VY (R86) -/
  | seVxVy (x y : Reg)
  /-- `6XNN` LD_VX_NN (R90) -/
  | ldVxNn (x : Reg) (nn : Byte)
  /-- `7XNN` ADD_VX_NN (R91) -/
  | addVxNn (x : Reg) (nn : Byte)
  /-- `8XY0` LD_VX_VY (R92) -/
  | ldVxVy (x y : Reg)
  /-- `8XY1` OR (R93) -/
  | orVxVy (x y : Reg)
  /-- `8XY2` AND (R94) -/
  | andVxVy (x y : Reg)
  /-- `8XY3` XOR (R95) -/
  | xorVxVy (x y : Reg)
  /-- `8XY4` ADD_VX_VY (R96) -/
  | addVxVy (x y : Reg)
  /-- `8XY5` SUB (R97) -/
  | sub (x y : Reg)
  /-- `8XY6` SHR (R98) -/
  | shr (x y : Reg)
  /-- `8XY7` SUBN (R99) -/
  | subn (x y : Reg)
  /-- `8XYE` SHL (R100) -/
  | shl (x y : Reg)
  /-- `9XY0` SNE_VX_VY (R87) -/
  | sneVxVy (x y : Reg)
  /-- `ANNN` LD_I_NNN (R105) -/
  | ldINnn (nnn : Addr12)
  /-- `BNNN` JP_V0 (R83) -/
  | jpV0 (nnn : Addr12)
  /-- `CXNN` RND (R101) -/
  | rnd (x : Reg) (nn : Byte)
  /-- `DXYN` DRW (R116) -/
  | drw (x y : Reg) (n : Nibble)
  /-- `EX9E` SKP (R123) -/
  | skp (x : Reg)
  /-- `EXA1` SKNP (R124) -/
  | sknp (x : Reg)
  /-- `FX07` LD_VX_DT (R126) -/
  | ldVxDt (x : Reg)
  /-- `FX0A` LD_VX_K (R125) -/
  | ldVxK (x : Reg)
  /-- `FX15` LD_DT_VX (R127) -/
  | ldDtVx (x : Reg)
  /-- `FX18` LD_ST_VX (R128) -/
  | ldStVx (x : Reg)
  /-- `FX1E` ADD_I_VX (R106) -/
  | addIVx (x : Reg)
  /-- `FX29` LD_F_VX (R107) -/
  | ldFVx (x : Reg)
  /-- `FX33` LD_B_VX (R108) -/
  | ldBVx (x : Reg)
  /-- `FX55` LD_MEM_VX (R109) -/
  | ldMemVx (x : Reg)
  /-- `FX65` LD_VX_MEM (R110) -/
  | ldVxMem (x : Reg)
  deriving DecidableEq, Repr

end Sys2Proof
end

