-- ==== Sys2Proof/Decode.lean ====
section
/-!
DEFINITION. Decode and encode (`30_encoding.md` R60 to R65, R70). Decoding is total: a 16-bit word is exactly one instruction with
its fields, or `unrecognized`. It reads nothing but the word (R68).
-/

namespace Sys2Proof

/-! ## The fields of a word (R10) -/

/-- `F` = op[15:12], the primary family. -/
def fieldF (op : Word) : Nibble := op.extractLsb' 12 4

/-- `X` = op[11:8]. -/
def fieldX (op : Word) : Reg := op.extractLsb' 8 4

/-- `Y` = op[7:4]. -/
def fieldY (op : Word) : Reg := op.extractLsb' 4 4

/-- `N` = op[3:0]. -/
def fieldN (op : Word) : Nibble := op.extractLsb' 0 4

/-- `NN` = op[7:0]. -/
def fieldNN (op : Word) : Byte := op.extractLsb' 0 8

/-- `NNN` = op[11:0]. -/
def fieldNNN (op : Word) : Addr12 := op.extractLsb' 0 12

/-! ## Decode, in the two levels of R63; every fixed digit is compared (R65, decision D12) -/

/-- Family `0`: the whole word is compared. -/
def decodeSystem (op : Word) : Option Instr :=
  if op = 0x00E0#16 then some .cls
  else if op = 0x00EE#16 then some .ret
  else none

/-- Families `5` and `9`: the low nibble must be 0. -/
def decodeRegSkip (op : Word) (i : Reg → Reg → Instr) : Option Instr :=
  if fieldN op = 0x0#4 then some (i (fieldX op) (fieldY op)) else none

/-- Family `8`: the low nibble selects one of nine instructions. -/
def decodeAlu (op : Word) : Option Instr :=
  let x := fieldX op
  let y := fieldY op
  match (fieldN op).toNat with
  | 0x0 => some (.ldVxVy x y)
  | 0x1 => some (.orVxVy x y)
  | 0x2 => some (.andVxVy x y)
  | 0x3 => some (.xorVxVy x y)
  | 0x4 => some (.addVxVy x y)
  | 0x5 => some (.sub x y)
  | 0x6 => some (.shr x y)
  | 0x7 => some (.subn x y)
  | 0xE => some (.shl x y)
  | _ => none

/-- Family `E`: the whole low byte is compared. -/
def decodeKeySkip (op : Word) : Option Instr :=
  if fieldNN op = 0x9E#8 then some (.skp (fieldX op))
  else if fieldNN op = 0xA1#8 then some (.sknp (fieldX op))
  else none

/-- Family `F`: the whole low byte is compared. -/
def decodeMisc (op : Word) : Option Instr :=
  let x := fieldX op
  let nn := fieldNN op
  if nn = 0x07#8 then some (.ldVxDt x)
  else if nn = 0x0A#8 then some (.ldVxK x)
  else if nn = 0x15#8 then some (.ldDtVx x)
  else if nn = 0x18#8 then some (.ldStVx x)
  else if nn = 0x1E#8 then some (.addIVx x)
  else if nn = 0x29#8 then some (.ldFVx x)
  else if nn = 0x33#8 then some (.ldBVx x)
  else if nn = 0x55#8 then some (.ldMemVx x)
  else if nn = 0x65#8 then some (.ldVxMem x)
  else none

/-- The instruction a word stands for; `none` is the spec's `unrecognized` (R63 to R65, R70). -/
def decodeWord (op : Word) : Option Instr :=
  match (fieldF op).toNat with
  | 0x0 => decodeSystem op
  | 0x1 => some (.jp (fieldNNN op))
  | 0x2 => some (.call (fieldNNN op))
  | 0x3 => some (.seVxNn (fieldX op) (fieldNN op))
  | 0x4 => some (.sneVxNn (fieldX op) (fieldNN op))
  | 0x5 => decodeRegSkip op .seVxVy
  | 0x6 => some (.ldVxNn (fieldX op) (fieldNN op))
  | 0x7 => some (.addVxNn (fieldX op) (fieldNN op))
  | 0x8 => decodeAlu op
  | 0x9 => decodeRegSkip op .sneVxVy
  | 0xA => some (.ldINnn (fieldNNN op))
  | 0xB => some (.jpV0 (fieldNNN op))
  | 0xC => some (.rnd (fieldX op) (fieldNN op))
  | 0xD => some (.drw (fieldX op) (fieldY op) (fieldN op))
  | 0xE => decodeKeySkip op
  | _ => decodeMisc op

/-! ## Decode on bytes -/

/-- The word formed by two consecutive bytes, the first one high: `mem[pc] ++ mem[pc+1]` (R46). -/
def wordOfBytes (hi lo : Byte) : Word := hi ++ lo

/-- What the decoder answers on a list of bytes. -/
inductive DecodeResult where
  /-- an instruction, and the bytes after it -/
  | instr (i : Instr) (rest : List Byte)
  /-- the first word matches no row of the opcode table (R70) -/
  | unrecognized (op : Word)
  /-- fewer than the two bytes every instruction has (R60) -/
  | tooShort
  deriving DecidableEq, Repr

/-- Decode the instruction at the head of a list of bytes: two bytes, big-endian (R60, R46). -/
def decode : List Byte → DecodeResult
  | hi :: lo :: rest =>
    match decodeWord (wordOfBytes hi lo) with
    | some i => .instr i rest
    | none => .unrecognized (wordOfBytes hi lo)
  | _ => .tooShort

/-- The two bytes of an instruction word as memory holds them: the high byte at the lower address (R46). -/
def bytesOfWord (op : Word) : List Byte := [op.extractLsb' 8 8, op.extractLsb' 0 8]

/-- The bytes of an instruction numbered as `spec/opcode_table.json` numbers its bits (bit 0 the least significant bit of the one
16-bit word), every bit from `nbits` up being 0. -/
def tableBytes (nbits w : Nat) : List Byte := bytesOfWord (BitVec.ofNat 16 (w % 2 ^ nbits))

/-- The instruction the decoder reads from a word of the opcode table (the host's interface). -/
def decodeTableWord (nbits w : Nat) : Option Instr :=
  match decode (tableBytes nbits w) with
  | .instr i _ => some i
  | .unrecognized _ => none
  | .tooShort => none

/-! ## Encode, in the six formats of R61 -/

/-- Format A: `F`, `NNN`. -/
def formatA (f : Nibble) (nnn : Addr12) : Word := f ++ nnn

/-- Format XI: `F`, `X`, `NN`. Format X is the same with a fixed `NN`. -/
def formatXI (f : Nibble) (x : Reg) (nn : Byte) : Word := f ++ x ++ nn

/-- Format XYN: `F`, `X`, `Y`, `N`. Format XY is the same with a fixed `N`. -/
def formatXYN (f : Nibble) (x y : Reg) (n : Nibble) : Word := f ++ x ++ y ++ n

/-- The word of an instruction, read off its pattern in R64. -/
def encode : Instr → Word
  | .cls => 0x00E0#16
  | .ret => 0x00EE#16
  | .jp nnn => formatA 0x1#4 nnn
  | .call nnn => formatA 0x2#4 nnn
  | .seVxNn x nn => formatXI 0x3#4 x nn
  | .sneVxNn x nn => formatXI 0x4#4 x nn
  | .seVxVy x y => formatXYN 0x5#4 x y 0x0#4
  | .ldVxNn x nn => formatXI 0x6#4 x nn
  | .addVxNn x nn => formatXI 0x7#4 x nn
  | .ldVxVy x y => formatXYN 0x8#4 x y 0x0#4
  | .orVxVy x y => formatXYN 0x8#4 x y 0x1#4
  | .andVxVy x y => formatXYN 0x8#4 x y 0x2#4
  | .xorVxVy x y => formatXYN 0x8#4 x y 0x3#4
  | .addVxVy x y => formatXYN 0x8#4 x y 0x4#4
  | .sub x y => formatXYN 0x8#4 x y 0x5#4
  | .shr x y => formatXYN 0x8#4 x y 0x6#4
  | .subn x y => formatXYN 0x8#4 x y 0x7#4
  | .shl x y => formatXYN 0x8#4 x y 0xE#4
  | .sneVxVy x y => formatXYN 0x9#4 x y 0x0#4
  | .ldINnn nnn => formatA 0xA#4 nnn
  | .jpV0 nnn => formatA 0xB#4 nnn
  | .rnd x nn => formatXI 0xC#4 x nn
  | .drw x y n => formatXYN 0xD#4 x y n
  | .skp x => formatXI 0xE#4 x 0x9E#8
  | .sknp x => formatXI 0xE#4 x 0xA1#8
  | .ldVxDt x => formatXI 0xF#4 x 0x07#8
  | .ldVxK x => formatXI 0xF#4 x 0x0A#8
  | .ldDtVx x => formatXI 0xF#4 x 0x15#8
  | .ldStVx x => formatXI 0xF#4 x 0x18#8
  | .addIVx x => formatXI 0xF#4 x 0x1E#8
  | .ldFVx x => formatXI 0xF#4 x 0x29#8
  | .ldBVx x => formatXI 0xF#4 x 0x33#8
  | .ldMemVx x => formatXI 0xF#4 x 0x55#8
  | .ldVxMem x => formatXI 0xF#4 x 0x65#8

/-! ## The opcode table of R64, as rows of mask and match -/

/-- One row of the opcode table: a word matches it when `op &&& mask = value` (R61). -/
structure OpcodeRow where
  mnemonic : String
  mask : Word
  value : Word
  deriving DecidableEq, Repr

/-- `op & mask = match` (R61). -/
def OpcodeRow.matchesWord (r : OpcodeRow) (op : Word) : Bool := decide (op &&& r.mask = r.value)

/-- The row of each instruction. -/
def Instr.row : Instr → OpcodeRow
  | .cls => ⟨"CLS", 0xFFFF#16, 0x00E0#16⟩
  | .ret => ⟨"RET", 0xFFFF#16, 0x00EE#16⟩
  | .jp _ => ⟨"JP", 0xF000#16, 0x1000#16⟩
  | .call _ => ⟨"CALL", 0xF000#16, 0x2000#16⟩
  | .seVxNn _ _ => ⟨"SE_VX_NN", 0xF000#16, 0x3000#16⟩
  | .sneVxNn _ _ => ⟨"SNE_VX_NN", 0xF000#16, 0x4000#16⟩
  | .seVxVy _ _ => ⟨"SE_VX_VY", 0xF00F#16, 0x5000#16⟩
  | .ldVxNn _ _ => ⟨"LD_VX_NN", 0xF000#16, 0x6000#16⟩
  | .addVxNn _ _ => ⟨"ADD_VX_NN", 0xF000#16, 0x7000#16⟩
  | .ldVxVy _ _ => ⟨"LD_VX_VY", 0xF00F#16, 0x8000#16⟩
  | .orVxVy _ _ => ⟨"OR", 0xF00F#16, 0x8001#16⟩
  | .andVxVy _ _ => ⟨"AND", 0xF00F#16, 0x8002#16⟩
  | .xorVxVy _ _ => ⟨"XOR", 0xF00F#16, 0x8003#16⟩
  | .addVxVy _ _ => ⟨"ADD_VX_VY", 0xF00F#16, 0x8004#16⟩
  | .sub _ _ => ⟨"SUB", 0xF00F#16, 0x8005#16⟩
  | .shr _ _ => ⟨"SHR", 0xF00F#16, 0x8006#16⟩
  | .subn _ _ => ⟨"SUBN", 0xF00F#16, 0x8007#16⟩
  | .shl _ _ => ⟨"SHL", 0xF00F#16, 0x800E#16⟩
  | .sneVxVy _ _ => ⟨"SNE_VX_VY", 0xF00F#16, 0x9000#16⟩
  | .ldINnn _ => ⟨"LD_I_NNN", 0xF000#16, 0xA000#16⟩
  | .jpV0 _ => ⟨"JP_V0", 0xF000#16, 0xB000#16⟩
  | .rnd _ _ => ⟨"RND", 0xF000#16, 0xC000#16⟩
  | .drw _ _ _ => ⟨"DRW", 0xF000#16, 0xD000#16⟩
  | .skp _ => ⟨"SKP", 0xF0FF#16, 0xE09E#16⟩
  | .sknp _ => ⟨"SKNP", 0xF0FF#16, 0xE0A1#16⟩
  | .ldVxDt _ => ⟨"LD_VX_DT", 0xF0FF#16, 0xF007#16⟩
  | .ldVxK _ => ⟨"LD_VX_K", 0xF0FF#16, 0xF00A#16⟩
  | .ldDtVx _ => ⟨"LD_DT_VX", 0xF0FF#16, 0xF015#16⟩
  | .ldStVx _ => ⟨"LD_ST_VX", 0xF0FF#16, 0xF018#16⟩
  | .addIVx _ => ⟨"ADD_I_VX", 0xF0FF#16, 0xF01E#16⟩
  | .ldFVx _ => ⟨"LD_F_VX", 0xF0FF#16, 0xF029#16⟩
  | .ldBVx _ => ⟨"LD_B_VX", 0xF0FF#16, 0xF033#16⟩
  | .ldMemVx _ => ⟨"LD_MEM_VX", 0xF0FF#16, 0xF055#16⟩
  | .ldVxMem _ => ⟨"LD_VX_MEM", 0xF0FF#16, 0xF065#16⟩

/-- The 34 rows in the table's order (R64). -/
def opcodeTable : List OpcodeRow :=
  [Instr.cls, .ret, .jp 0, .call 0, .seVxNn 0 0, .sneVxNn 0 0, .seVxVy 0 0, .ldVxNn 0 0, .addVxNn 0 0].map Instr.row ++
  [Instr.ldVxVy 0 0, .orVxVy 0 0, .andVxVy 0 0, .xorVxVy 0 0, .addVxVy 0 0, .sub 0 0, .shr 0 0, .subn 0 0, .shl 0 0].map
    Instr.row ++
  [Instr.sneVxVy 0 0, .ldINnn 0, .jpV0 0, .rnd 0 0, .drw 0 0 0, .skp 0, .sknp 0].map Instr.row ++
  [Instr.ldVxDt 0, .ldVxK 0, .ldDtVx 0, .ldStVx 0, .addIVx 0, .ldFVx 0, .ldBVx 0, .ldMemVx 0, .ldVxMem 0].map Instr.row

end Sys2Proof
end

