-- ==== Sys2Proof/Config.lean ====
section
/-!
DEFINITION. The configuration parameters of `00_scope.md` R7 and the one free value of the model, the random byte.
The parameters are fixed for the life of a core and no program can change them; the model carries them in the field `cfg` of State
(assumption log 1), so that a statement holds for all of their values unless it names one. Their defaults are in
`Machine/Defaults.lean`.
-/

namespace Sys2Proof

/-- `SHIFT_SOURCE` (R7, R98, R100): which register `8XY6` and `8XYE` shift. -/
inductive ShiftSource where
  | vx
  | vy
  deriving DecidableEq, Repr

/-- `DRAW_EDGE` (R7, R118 to R120): what `DXYN` does with pixels beyond column 63 or row 31. -/
inductive DrawEdge where
  | wrap
  | clip
  | fault
  deriving DecidableEq, Repr

/-- `FONT` (R7, R45): the 80 bytes `reset()` installs at `0x000` to `0x04F`. -/
abbrev Font := Vector Byte 80

/-- The configuration of a core (R7). -/
structure Config where
  /-- `SHIFT_SOURCE` -/
  shiftSource : ShiftSource
  /-- `DRAW_EDGE` -/
  drawEdge : DrawEdge
  /-- `UNK_ADVANCE`: the primary nibbles in which an unrecognized word still advances pc by 2 (R71); a set, kept as a list with no
  repeats (`Config.wf`). -/
  unkAdvance : List Nibble
  /-- `FONT` -/
  font : Font
  /-- `UNK_W`: the width of the counter `unk_count` (R32); positive (`Config.wf`). -/
  unkWidth : Nat
  deriving DecidableEq, Repr

/-- FREE VALUE: the byte `random_byte()` returns at the `n`-th draw (R101, decision D24: "a free 8-bit input", any generator).
It has no body that a proof could use, so a statement about it holds for every stream of drawn bytes (assumption log 2). -/
opaque Config.randomByte : Nat → Byte

end Sys2Proof
end

