-- ==== Sys2Proof/Machine/Defaults.lean ====
section
/-!
DEFINITION. The defaults of the configuration parameters (`00_scope.md` R7, `20_memory.md` R45).
-/

namespace Sys2Proof.Machine

/-- The default `FONT`, glyphs 0 to 7 (R45). PRESUMED: the spec takes the bytes from general knowledge of CHIP-8, the source does
not give them (decision D10, assumption log 5). -/
def fontLow : Vector Byte 40 :=
  #v[0xF0, 0x90, 0x90, 0x90, 0xF0, 0x20, 0x60, 0x20, 0x20, 0x70, 0xF0, 0x10, 0xF0, 0x80, 0xF0, 0xF0, 0x10, 0xF0, 0x10, 0xF0,
     0x90, 0x90, 0xF0, 0x10, 0x10, 0xF0, 0x80, 0xF0, 0x10, 0xF0, 0xF0, 0x80, 0xF0, 0x90, 0xF0, 0xF0, 0x10, 0x20, 0x40, 0x40]

/-- The default `FONT`, glyphs 8 to F (R45). PRESUMED, as `fontLow`. -/
def fontHigh : Vector Byte 40 :=
  #v[0xF0, 0x90, 0xF0, 0x90, 0xF0, 0xF0, 0x90, 0xF0, 0x10, 0xF0, 0xF0, 0x90, 0xF0, 0x90, 0x90, 0xE0, 0x90, 0xE0, 0x90, 0xE0,
     0xF0, 0x80, 0x80, 0x80, 0xF0, 0xE0, 0x90, 0x90, 0x90, 0xE0, 0xF0, 0x80, 0xF0, 0x80, 0xF0, 0xF0, 0x80, 0xF0, 0x80, 0x80]

/-- The default `FONT`: 16 glyphs of 5 bytes (R45). -/
def defaultFont : Font := fontLow ++ fontHigh

/-- The default configuration of R7: `SHIFT_SOURCE = VX`, `DRAW_EDGE = wrap`, `UNK_ADVANCE` empty, the default font, `UNK_W = 16`.
DESIGN CHOICE of the spec: decisions D16, D17, D13, D10, D14 (assumption log 5, 7, 8, 9, 10). -/
def defaultConfig : Config where
  shiftSource := .vx
  drawEdge := .wrap
  unkAdvance := []
  font := defaultFont
  unkWidth := 16

end Sys2Proof.Machine
end

