-- ==== Sys2Proof/Machine/Framebuffer.lean ====
section
/-!
DEFINITION. The framebuffer (`10_state.md` R27): 64 columns by 32 rows of 1-bit pixels, `fb[x][y]` with the column first
(decision D34). It is not in memory.
-/

namespace Sys2Proof.Machine

/-- `fb[0..63][0..31]`, column first. -/
abbrev Framebuffer := Vector (Vector Bool 32) 64

/-- A pixel: column `x` (0 to 63) and row `y` (0 to 31). -/
abbrev Pixel := Fin 64 × Fin 32

/-- All 2048 pixels 0. -/
def Framebuffer.clear : Framebuffer := Vector.replicate 64 (Vector.replicate 32 false)

/-- `fb[x][y]`. -/
def Framebuffer.get (fb : Framebuffer) (p : Pixel) : Bool := fb[p.1.val][p.2.val]

/-- `fb[x][y] <- b`. -/
def Framebuffer.put (fb : Framebuffer) (p : Pixel) (b : Bool) : Framebuffer :=
  fb.set p.1.val (fb[p.1.val].set p.2.val b)

end Sys2Proof.Machine
end

