-- ==== Sys2Proof/Machine/Memory.lean ====
section
/-!
DEFINITION. The memory (`10_state.md` R28, `20_memory.md` R40): 4096 bytes at `0x000` to `0xFFF`, held as the list of the cells that
differ from the reset contents, addresses strictly rising (assumption log 23). The bound `0xFFF` is checked by the instructions and
the fetch, for the whole access at once (R50, R51), so the operations here never see an address above it.
-/

namespace Sys2Proof.Machine

/-- The listed cells of memory, in the canonical form `Memory.wf`. -/
abbrev Memory := List Host.Cell

/-- `MEM_SIZE` (R6). -/
def memSize : Nat := 4096

/-- What an address that no cell lists reads as: the contents after `reset()`, that is the font at `0x000` to `0x04F` and 0 above
(R28, R156). -/
def Memory.unlisted (font : Font) (a : Nat) : Byte :=
  if h : a < 80 then font[a] else 0

/-- `mem[a]`. -/
def Memory.read (font : Font) : Memory → Nat → Byte
  | [], a => Memory.unlisted font a
  | c :: m, a => if a = c.1 then c.2 else Memory.read font m a

/-- Put a cell before the first listed one with a higher address. -/
def Memory.insertCell (a : Nat) (b : Byte) : Memory → Memory
  | [] => [(a, b)]
  | c :: m => if a < c.1 then (a, b) :: c :: m else c :: Memory.insertCell a b m

/-- `mem[a] <- b`. Writing the byte an unlisted address reads as takes the cell out of the list, so that equal memories are equal
lists. -/
def Memory.write (font : Font) (m : Memory) (a : Nat) (b : Byte) : Memory :=
  let others := m.filter (fun c => c.1 != a)
  if b = Memory.unlisted font a then others else Memory.insertCell a b others

/-- The canonical form: addresses strictly rising and inside the 4096 bytes, no cell equal to what its address reads as unlisted. -/
abbrev Memory.wf (font : Font) (m : Memory) : Prop :=
  m.Pairwise (fun c d => c.1 < d.1) ∧ ∀ c ∈ m, c.1 < memSize ∧ c.2 ≠ Memory.unlisted font c.1

end Sys2Proof.Machine
end

