-- ==== Sys2Proof/Machine/State.lean ====
section
/-!
DEFINITION. The state of the core: exactly the elements of `10_state.md` R34, under the spec's own names, and two fields of the
model's own (`cfg`, `draws`) that hold what the spec calls parameters and inputs of a transition (`00_scope.md` R7, R9).
-/

namespace Sys2Proof.Machine

/-- The six run-time faults of `60_exceptions.md` R132. A fault is recorded in the register `fault` and halts the core (R135, R137):
the model TAKES it, as a next state. -/
inductive FaultKind where
  /-- code 1: `2NNN` with `sp = 16` -/
  | stackOverflow
  /-- code 2: `00EE` with `sp = 0` -/
  | stackUnderflow
  /-- code 3: `DXYN`, `FX33`, `FX55`, `FX65` with a last byte address above `0xFFF` -/
  | memOutOfRange
  /-- code 4: a fetch with `pc > 0xFFE` -/
  | fetchOutOfRange
  /-- code 5: `EX9E`, `EXA1` with `V[X] > 15` -/
  | keyIndexOutOfRange
  /-- code 6: `DXYN` outside the grid when `DRAW_EDGE = fault` -/
  | drawOutOfRange
  deriving DecidableEq, Repr

/-- Reasons for which a step of this machine stops with the interface's `fault` outcome: there are none. Every run-time fault the
spec names has a described effect (R135: the register `fault` takes the code, nothing else changes, the core halts), so it is a
next state, and what the spec refuses is a `Refusal` (assumption log 3). Safe: no behaviour of the spec is cut off by it. -/
inductive Fault where
  deriving DecidableEq, Repr

/-- What the machine refuses to do. A refused operation changes nothing. -/
inductive Refusal where
  /-- An instruction with no meaning yet (raised by `exec` only; no arm does). Safe: nothing can be proved of such a step. -/
  | notModelled (mnemonic : String)
  /-- `NotReset`: any operation but `reset()` while `init = 0` (R155). Raised by `step`, `hostLoad`, `hostTick`, `hostSetKeys`.
  Safe: it is the outcome the spec gives. -/
  | notReset
  /-- `Halted`: `step()` while `fault` is not 0 (R137). Raised by `step`. Safe: it is the outcome the spec gives. -/
  | halted
  /-- `RomTooLarge`: `load(bytes)` with more than 3584 bytes (R159). Raised by `hostLoad`. Safe: it is the outcome the spec gives. -/
  | romTooLarge
  deriving DecidableEq, Repr

/-- The state of the core (R34). Names are the spec's. -/
structure State where
  /-- `V[0]` to `V[15]` (R20) -/
  V : Vector Byte 16
  /-- the index register (R22) -/
  I : Word
  /-- the program counter (R23) -/
  pc : Word
  /-- the number of stack entries in use, 0 to 16 (R24) -/
  sp : Fin 17
  /-- the sixteen return addresses (R24) -/
  stack : Vector Word 16
  /-- the delay timer (R25) -/
  DT : Byte
  /-- the sound timer (R25) -/
  ST : Byte
  /-- the sixteen key flags (R26) -/
  key : Vector Bool 16
  /-- the framebuffer (R27) -/
  fb : Framebuffer
  /-- memory (R28), as the cells that differ from the reset contents -/
  mem : Memory
  /-- the last fetched word (R29) -/
  opcode : Word
  /-- false from power-on until the first `reset()` (R30) -/
  init : Bool
  /-- the first run-time fault since reset; `none` is code 0 (R31) -/
  fault : Option FaultKind
  /-- the saturating counter of unrecognized words, of `cfg.unkWidth` bits (R32) -/
  unkCount : Nat
  /-- MODEL'S OWN: the configuration of the core, constant (R7; assumption log 1) -/
  cfg : Config
  /-- MODEL'S OWN: how many random bytes have been drawn (R101; assumption log 2) -/
  draws : Nat
  deriving DecidableEq, Repr

/-- The state `reset()` leaves (R34, R156) on a core with the given configuration whose random source has given `draws` bytes. -/
def State.resetWith (cfg : Config) (draws : Nat) : State where
  V := Vector.replicate 16 0
  I := 0
  pc := 0x0200
  sp := 0
  stack := Vector.replicate 16 0
  DT := 0
  ST := 0
  key := Vector.replicate 16 false
  fb := Framebuffer.clear
  mem := []
  opcode := 0
  init := true
  fault := none
  unkCount := 0
  cfg := cfg
  draws := draws

/-- The machine right after `reset()` (R34, R156), with the default configuration of R7 (DESIGN CHOICE of the spec's decisions D10,
D13, D14, D16, D17) and no random byte drawn (DESIGN CHOICE, assumption log 2). -/
def State.reset : State := State.resetWith defaultConfig 0

end Sys2Proof.Machine
end

