-- ==== Sys2Proof/Machine/Ops.lean ====
section
/-!
DEFINITION. The named operations the meanings are written over: registers (R12), memory (R13), the program counter (R69), the call
stack (R24), taking a fault (R135) and fetching a word (R67).
-/

namespace Sys2Proof.Machine

/-- What an operation on the state answers. -/
abbrev Result := Host.Outcome State Fault Refusal

/-! ## Registers -/

/-- `V[r]` (R12). -/
def State.readV (s : State) (r : Reg) : Byte := s.V[r.toNat]'(by have := r.isLt; omega)

/-- `V[r] <- b` (R12). -/
def State.writeV (s : State) (r : Reg) (b : Byte) : State :=
  { s with V := s.V.set r.toNat b (by have := r.isLt; omega) }

/-- `I <- w`. -/
def State.setI (s : State) (w : Word) : State := { s with I := w }

/-! ## Program counter (R69), modulo 65536 (decision D9) -/

/-- `pc <- w`. -/
def State.setPc (s : State) (w : Word) : State := { s with pc := w }

/-- `pc <- (pc + 2) mod 65536`. -/
def State.advance (s : State) : State := s.setPc (s.pc + 2)

/-- A skip: `pc + 4` when the condition holds, `pc + 2` when not. -/
def State.skipIf (s : State) (taken : Bool) : State :=
  if taken then s.setPc (s.pc + 4) else s.advance

/-! ## Memory -/

/-- `mem[a]`. -/
def State.peek (s : State) (a : Nat) : Byte := s.mem.read s.cfg.font a

/-- `mem[a] <- b`. -/
def State.poke (s : State) (a : Nat) (b : Byte) : State := { s with mem := s.mem.write s.cfg.font a b }

/-- `for k from 0 to n - 1: MemWrite(I + k, 1, V[k])` (R109). -/
def State.storeRegs (s : State) : Nat → State
  | 0 => s
  | n + 1 => (s.storeRegs n).poke (s.I.toNat + n) (s.readV (BitVec.ofNat 4 n))

/-- `for k from 0 to n - 1: V[k] <- MemRead(I + k, 1)` (R110). -/
def State.loadRegs (s : State) : Nat → State
  | 0 => s
  | n + 1 => (s.loadRegs n).writeV (BitVec.ofNat 4 n) (s.peek (s.I.toNat + n))

/-- Copy a list of bytes to memory from address `a` up (R158). -/
def State.pokeList (s : State) (a : Nat) : List Byte → State
  | [] => s
  | b :: bs => (s.poke a b).pokeList (a + 1) bs

/-! ## Taking a fault (R14, R135), and the absence of a return -/

/-- The code of a fault (R132). -/
def FaultKind.code : FaultKind → BitVec 3
  | .stackOverflow => 1
  | .stackUnderflow => 2
  | .memOutOfRange => 3
  | .fetchOutOfRange => 4
  | .keyIndexOutOfRange => 5
  | .drawOutOfRange => 6

/-- The 3-bit register `fault`: 0 when the core is not halted (R31, R132). -/
def State.faultCode (s : State) : BitVec 3 :=
  match s.fault with
  | none => 0
  | some k => k.code

/-- The state a fault leaves: `fault <- code(k)`, every other element as it was; pc still addresses the faulting instruction (R135).
There is no return from a fault (R138): only `reset()` clears the register (`hostReset`). -/
def State.raised (k : FaultKind) (s : State) : State := { s with fault := some k }

/-- `raise k` (R14): a next state, in which the core is halted. -/
def raise (k : FaultKind) (s : State) : Result := .next (s.raised k)

/-- The instruction completes and pc advances by 2 (R69). -/
def done (s : State) : Result := .next s.advance

/-! ## The call stack (R24) -/

/-- `stack[sp] <- pc; sp <- sp + 1`, with the proof that the stack is not full. -/
def State.push (s : State) (h : s.sp.val < 16) : State :=
  { s with stack := s.stack.set s.sp.val s.pc h, sp := ⟨s.sp.val + 1, by omega⟩ }

/-- The entry a pop reads: `stack[sp - 1]`, with the proof that the stack is not empty. -/
def State.top (s : State) (h : 0 < s.sp.val) : Word :=
  s.stack[s.sp.val - 1]'(by have := s.sp.isLt; omega)

/-- `sp <- sp - 1`; the popped entry keeps its value (R24). -/
def State.pop (s : State) : State := { s with sp := ⟨s.sp.val - 1, by have := s.sp.isLt; omega⟩ }

/-! ## The random source -/

/-- `random_byte()`: the next byte of the free stream (R101). -/
def State.drawn (s : State) : Byte := Config.randomByte s.draws

/-- One byte of the random source has been consumed (R101). -/
def State.consume (s : State) : State := { s with draws := s.draws + 1 }

/-! ## Fetch -/

/-- `Fetch16(pc)` (R13, R51): the big-endian word at pc, or `none` when `pc > 0xFFE`. -/
def State.fetch16 (s : State) : Option Word :=
  if s.pc.toNat ≤ 0xFFE then some (wordOfBytes (s.peek s.pc.toNat) (s.peek (s.pc.toNat + 1))) else none

/-- The fetched word goes to the register `opcode` (R67). -/
def State.setOpcode (s : State) (op : Word) : State := { s with opcode := op }

end Sys2Proof.Machine
end

