-- ==== Sys2Proof/Machine/Flags.lean ====
section
/-!
DEFINITION. The flag values written to VF (`10_state.md` R21): seven instructions write 0 or 1, each by its own rule.
-/

namespace Sys2Proof.Machine

/-- A flag as the byte 0 or 1. -/
def flag (c : Bool) : Byte := if c then 1 else 0

/-- `1 if a + b > 255 else 0` (R96). -/
def carryFlag (a b : Byte) : Byte := flag (decide (a.toNat + b.toNat > 255))

/-- `1 if a >= b else 0`: no borrow in `a - b` (R97, R99). -/
def noBorrowFlag (a b : Byte) : Byte := flag (decide (a.toNat ≥ b.toNat))

/-- Bit 0 of the source of a right shift (R98). -/
def lowBitFlag (a : Byte) : Byte := a &&& 1

/-- Bit 7 of the source of a left shift, as 0 or 1 (R100). -/
def highBitFlag (a : Byte) : Byte := a >>> 7

/-- `1 if I + v > 0xFFF else 0`, over the integers (R106). -/
def indexFlag (i : Word) (v : Byte) : Byte := flag (decide (i.toNat + v.toNat > 0xFFF))

/-- `VF <- c` (R21). -/
def State.setFlag (s : State) (c : Byte) : State := s.writeV VF c

end Sys2Proof.Machine
end

