-- ==== Sys2Proof/Machine/Operands.lean ====
section
/-!
DEFINITION. The operand forms (`30_encoding.md` R62, `42_index_memory.md` R111): the zero-extended address, the shift source, the
memory range addressed through `I`, the key a register names, and the pixel a sprite bit targets.
-/

namespace Sys2Proof.Machine

/-- `zext_16(NNN)` (R62). -/
def zext16 (nnn : Addr12) : Word := nnn.setWidth 16

/-- The 8-bit value of a register, zero-extended to 16 bits (R83, R106, R107). -/
def byteToWord (b : Byte) : Word := b.setWidth 16

/-- The register `8XY6` and `8XYE` shift: `X`, or `Y` when `SHIFT_SOURCE = VY` (R98, R100). -/
def State.shiftReg (s : State) (x y : Reg) : Reg :=
  match s.cfg.shiftSource with
  | .vx => x
  | .vy => y

/-- The address of byte `k` of an access through `I`: the integer `I + k`, not reduced (R49, R111). -/
def State.addr (s : State) (k : Nat) : Nat := s.I.toNat + k

/-- The access of `len` bytes through `I` has its last byte above `0xFFF` (R50). An access of no byte is never out of range. -/
def State.outOfRange (s : State) (len : Nat) : Bool :=
  decide (0 < len ∧ 0xFFF < s.I.toNat + len - 1)

/-- The range check of a memory instruction, made before any byte is moved and any register is written (R50). -/
def State.checked (s : State) (len : Nat) (r : Result) : Result :=
  if s.outOfRange len then raise .memOutOfRange s else r

/-- The key `V[x]` names, or `none` when `V[x] > 15` (R123). -/
def State.keyOf (s : State) (x : Reg) : Option (Fin 16) :=
  if h : (s.readV x).toNat < 16 then some ⟨(s.readV x).toNat, h⟩ else none

/-- The least `j` with `key[j] = 1`, if any (R125; decision D21). -/
def State.firstKey (s : State) : Option Nat := s.key.toList.findIdx? id

/-- The pixel in column `x` and row `y`, if it is on the grid. -/
def gridPixel (x y : Nat) : Option Pixel :=
  if h : x < 64 ∧ y < 32 then some (⟨x, h.1⟩, ⟨y, h.2⟩) else none

/-- `target(x, y)` of R118 to R120: the pixel a set sprite bit at column `x`, row `y` changes, or `none`. -/
def target : DrawEdge → Nat → Nat → Option Pixel
  | .wrap, x, y => gridPixel (x % 64) (y % 32)
  | .clip, x, y => gridPixel x y
  | .fault, x, y => gridPixel x y

/-- The 8 by `n` rectangle at (`x`, `y`) does not lie inside the grid (R120). -/
def offGrid (x y n : Nat) : Bool := decide (x + 7 > 63 ∨ y + n - 1 > 31)

end Sys2Proof.Machine
end

