-- ==== Sys2Proof/Machine/Alu.lean ====
section
/-!
DEFINITION. Register loads, arithmetic, logic, shifts and random (`41_register_alu.md` R90 to R103). The flag-writing instructions
write VF first and compute the result from the registers as they then stand (`00_scope.md` R15, decision D15, assumption log 11).
-/

namespace Sys2Proof.Machine

/-- `6XNN` LD (R90). -/
def execLdVxNn (x : Reg) (nn : Byte) (s : State) : Result := done (s.writeV x nn)

/-- `7XNN` ADD (R91): modulo 256, no flag. -/
def execAddVxNn (x : Reg) (nn : Byte) (s : State) : Result := done (s.writeV x (s.readV x + nn))

/-- `8XY0` LD (R92). -/
def execLdVxVy (x y : Reg) (s : State) : Result := done (s.writeV x (s.readV y))

/-- `8XY1` OR (R93): VF is not written. -/
def execOrVxVy (x y : Reg) (s : State) : Result := done (s.writeV x (s.readV x ||| s.readV y))

/-- `8XY2` AND (R94). -/
def execAndVxVy (x y : Reg) (s : State) : Result := done (s.writeV x (s.readV x &&& s.readV y))

/-- `8XY3` XOR (R95). -/
def execXorVxVy (x y : Reg) (s : State) : Result := done (s.writeV x (s.readV x ^^^ s.readV y))

/-- `8XY4` ADD (R96): `VF <- carry`, then `V[X] <- (V[X] + V[Y]) mod 256`. -/
def execAddVxVy (x y : Reg) (s : State) : Result :=
  let t := s.setFlag (carryFlag (s.readV x) (s.readV y))
  done (t.writeV x (t.readV x + t.readV y))

/-- `8XY5` SUB (R97): `VF <- no borrow`, then `V[X] <- (V[X] - V[Y]) mod 256`. -/
def execSub (x y : Reg) (s : State) : Result :=
  let t := s.setFlag (noBorrowFlag (s.readV x) (s.readV y))
  done (t.writeV x (t.readV x - t.readV y))

/-- `8XY6` SHR (R98): `VF <-` bit 0 of the source, then `V[X] <-` the source shifted right by one. -/
def execShr (x y : Reg) (s : State) : Result :=
  let src := s.shiftReg x y
  let t := s.setFlag (lowBitFlag (s.readV src))
  done (t.writeV x (t.readV src >>> 1))

/-- `8XY7` SUBN (R99): `VF <- no borrow`, then `V[X] <- (V[Y] - V[X]) mod 256`. -/
def execSubn (x y : Reg) (s : State) : Result :=
  let t := s.setFlag (noBorrowFlag (s.readV y) (s.readV x))
  done (t.writeV x (t.readV y - t.readV x))

/-- `8XYE` SHL (R100): `VF <-` bit 7 of the source, then `V[X] <-` the source shifted left by one, modulo 256. -/
def execShl (x y : Reg) (s : State) : Result :=
  let src := s.shiftReg x y
  let t := s.setFlag (highBitFlag (s.readV src))
  done (t.writeV x (t.readV src <<< 1))

/-- `CXNN` RND (R101): `V[X] <- rnd & NN`, `rnd` the free byte of this draw; one byte is consumed. -/
def execRnd (x : Reg) (nn : Byte) (s : State) : Result := done ((s.writeV x (s.drawn &&& nn)).consume)

end Sys2Proof.Machine
end

