-- ==== Sys2Proof/Machine/Display.lean ====
section
/-!
DEFINITION. The display instructions (`43_display.md` R115 to R122): clear, and draw a sprite by exclusive or.
-/

namespace Sys2Proof.Machine

/-- `fb <- all 0` (R115). -/
def State.clearScreen (s : State) : State := { s with fb := Framebuffer.clear }

/-- `00E0` CLS (R115): VF is not written. -/
def execCls (s : State) : Result := done s.clearScreen

/-- The two variables of the draw loop of R116: the grid and `hit`. -/
structure Canvas where
  fb : Framebuffer
  hit : Bool
  deriving DecidableEq, Repr

/-- A set sprite bit reaches its target: `hit <- 1` if the pixel was 1, and the pixel is inverted; nothing without a target (R116). -/
def Canvas.plot (c : Canvas) : Option Pixel → Canvas
  | none => c
  | some p => { fb := c.fb.put p (!c.fb.get p), hit := c.hit || c.fb.get p }

/-- The first `n` columns of one sprite row at column `x`, row `y` of the grid; column `k` is bit `7 - k` (R117, decision D18). -/
def drawRow (edge : DrawEdge) (x y : Nat) (row : Byte) : Nat → Canvas → Canvas
  | 0, c => c
  | k + 1, c =>
    let c' := drawRow edge x y row k c
    if row.getLsbD (7 - k) then c'.plot (target edge (x + k) y) else c'

/-- The first `n` rows of the sprite at `I`, drawn at column `x`, row `y`; row `r` is the byte at `I + r` (R116, R117). -/
def State.drawRows (s : State) (x y : Nat) : Nat → Canvas → Canvas
  | 0, c => c
  | r + 1, c => drawRow s.cfg.drawEdge x (y + r) (s.peek (s.addr r)) 8 (s.drawRows x y r c)

/-- The grid is replaced and `VF <- hit`, once, after the whole sprite (R116). -/
def State.setCanvas (s : State) (c : Canvas) : State := { s with fb := c.fb }.setFlag (flag c.hit)

/-- `DXYN` DRW (R116): coordinates sampled first, `DrawOutOfRange` (only when `DRAW_EDGE = fault`, R120) before `MemOutOfRange`
(R134), both before anything is written. -/
def execDrw (x y : Reg) (n : Nibble) (s : State) : Result :=
  let x0 := (s.readV x).toNat
  let y0 := (s.readV y).toNat
  if 0 < n.toNat ∧ s.cfg.drawEdge = .fault ∧ offGrid x0 y0 n.toNat = true then raise .drawOutOfRange s
  else s.checked n.toNat (done (s.setCanvas (s.drawRows x0 y0 n.toNat { fb := s.fb, hit := false })))

end Sys2Proof.Machine
end

