-- ==== Sys2Proof/Machine/Flow.lean ====
section
/-!
DEFINITION. Control transfer (`40_flow_control.md` R80 to R89): return, jump, call, jump with offset, the register skips.
-/

namespace Sys2Proof.Machine

/-- `00EE` RET (R80): pop, `pc <- (stack[sp] + 2) mod 65536`; `StackUnderflow` when `sp = 0`. -/
def execRet (s : State) : Result :=
  if h : 0 < s.sp.val then .next (s.pop.setPc (s.top h + 2)) else raise .stackUnderflow s

/-- `1NNN` JP (R81): `pc <- zext_16(NNN)`. -/
def execJp (nnn : Addr12) (s : State) : Result := .next (s.setPc (zext16 nnn))

/-- `2NNN` CALL (R82): push the address of this CALL, `pc <- zext_16(NNN)`; `StackOverflow` when `sp = 16`. -/
def execCall (nnn : Addr12) (s : State) : Result :=
  if h : s.sp.val < 16 then .next ((s.push h).setPc (zext16 nnn)) else raise .stackOverflow s

/-- `BNNN` JP V0 (R83): `pc <- zext_16(NNN) + V[0]`; the sum is at most `0x10FE`, so no reduction takes place. -/
def execJpV0 (nnn : Addr12) (s : State) : Result := .next (s.setPc (zext16 nnn + byteToWord (s.readV V0)))

/-- `3XNN` SE (R84). -/
def execSeVxNn (x : Reg) (nn : Byte) (s : State) : Result := .next (s.skipIf (s.readV x == nn))

/-- `4XNN` SNE (R85). -/
def execSneVxNn (x : Reg) (nn : Byte) (s : State) : Result := .next (s.skipIf (s.readV x != nn))

/-- `5XY0` SE (R86). -/
def execSeVxVy (x y : Reg) (s : State) : Result := .next (s.skipIf (s.readV x == s.readV y))

/-- `9XY0` SNE (R87). -/
def execSneVxVy (x y : Reg) (s : State) : Result := .next (s.skipIf (s.readV x != s.readV y))

end Sys2Proof.Machine
end

