-- ==== Sys2Proof/Machine/Index.lean ====
section
/-!
DEFINITION. The index register and the memory instructions (`42_index_memory.md` R105 to R111). `FX55` and `FX65` leave `I` as it is
(decision D22).
-/

namespace Sys2Proof.Machine

/-- `ANNN` LD I (R105). -/
def execLdINnn (nnn : Addr12) (s : State) : Result := done (s.setI (zext16 nnn))

/-- `FX1E` ADD I (R106): `VF <- 1 if I + V[X] > 0xFFF`, then `I <- (I + V[X]) mod 65536` with the VF just written when `X = 15`. -/
def execAddIVx (x : Reg) (s : State) : Result :=
  let t := s.setFlag (indexFlag s.I (s.readV x))
  done (t.setI (t.I + byteToWord (t.readV x)))

/-- `FX29` LD F (R107): `I <- V[X] * 5`, the whole byte, not masked. -/
def execLdFVx (x : Reg) (s : State) : Result := done (s.setI (byteToWord (s.readV x) * 5))

/-- The three decimal digits of a byte are stored at `I`, `I + 1`, `I + 2`: hundreds, tens, units (R108). -/
def State.storeDigits (s : State) (v : Byte) : State :=
  ((s.poke (s.addr 0) (v / 100)).poke (s.addr 1) (v / 10 % 10)).poke (s.addr 2) (v % 10)

/-- `FX33` LD B (R108). -/
def execLdBVx (x : Reg) (s : State) : Result := s.checked 3 (done (s.storeDigits (s.readV x)))

/-- `FX55` LD [I], Vx (R109): V0 to V[X] to memory from `I` up. -/
def execLdMemVx (x : Reg) (s : State) : Result := s.checked (x.toNat + 1) (done (s.storeRegs (x.toNat + 1)))

/-- `FX65` LD Vx, [I] (R110): V0 to V[X] from memory from `I` up. -/
def execLdVxMem (x : Reg) (s : State) : Result := s.checked (x.toNat + 1) (done (s.loadRegs (x.toNat + 1)))

end Sys2Proof.Machine
end

