-- ==== Sys2Proof/Machine/Keypad.lean ====
section
/-!
DEFINITION. The keypad and timer instructions (`44_keypad_timers.md` R123 to R128).
-/

namespace Sys2Proof.Machine

/-- `EX9E` SKP (R123): skip if the key named by `V[X]` is pressed; `KeyIndexOutOfRange` when `V[X] > 15`. -/
def execSkp (x : Reg) (s : State) : Result :=
  match s.keyOf x with
  | some k => .next (s.skipIf s.key[k.val])
  | none => raise .keyIndexOutOfRange s

/-- `EXA1` SKNP (R124): skip if the key named by `V[X]` is not pressed; `KeyIndexOutOfRange` when `V[X] > 15`. -/
def execSknp (x : Reg) (s : State) : Result :=
  match s.keyOf x with
  | some k => .next (s.skipIf (!s.key[k.val]))
  | none => raise .keyIndexOutOfRange s

/-- `FX0A` LD Vx, K (R125): the least pressed key to `V[X]`; with no key pressed the step completes and pc stays. -/
def execLdVxK (x : Reg) (s : State) : Result :=
  match s.firstKey with
  | some j => done (s.writeV x (BitVec.ofNat 8 j))
  | none => .next s

/-- `DT <- b` (R25). -/
def State.setDT (s : State) (b : Byte) : State := { s with DT := b }

/-- `ST <- b` (R25). -/
def State.setST (s : State) (b : Byte) : State := { s with ST := b }

/-- `FX07` LD Vx, DT (R126). -/
def execLdVxDt (x : Reg) (s : State) : Result := done (s.writeV x s.DT)

/-- `FX15` LD DT, Vx (R127). -/
def execLdDtVx (x : Reg) (s : State) : Result := done (s.setDT (s.readV x))

/-- `FX18` LD ST, Vx (R128). -/
def execLdStVx (x : Reg) (s : State) : Result := done (s.setST (s.readV x))

end Sys2Proof.Machine
end

