-- ==== Sys2Proof/Machine/Cycle.lean ====
section
/-!
DEFINITION. The step cycle of `30_encoding.md` R66 and the unrecognized words of R71; `Machine/Step.lean` only calls it.
-/

namespace Sys2Proof.Machine

/-- `unk_count <- min(unk_count + 1, 2^UNK_W - 1)` (R71). -/
def State.countUnrecognized (s : State) : State :=
  { s with unkCount := min (s.unkCount + 1) (2 ^ s.cfg.unkWidth - 1) }

/-- A step whose word `op` is unrecognized (R71): it is counted, and pc advances by 2 only if the family is in `UNK_ADVANCE`. -/
def unrecognizedStep (op : Word) (s : State) : State :=
  if fieldF op ∈ s.cfg.unkAdvance then s.countUnrecognized.advance else s.countUnrecognized

/-- Steps 5 to 7 of R66, on the state in which `opcode` already holds the word. -/
def runWord (op : Word) (s : State) : Result :=
  match decodeWord op with
  | none => .next (unrecognizedStep op s)
  | some i => exec i s

/-- `step()` (R66): the checks in the order of R134, fetch, decode, execute. -/
def cycle (s : State) : Result :=
  if s.init = false then .refused .notReset
  else if s.fault ≠ none then .refused .halted
  else match s.fetch16 with
    | none => raise .fetchOutOfRange s
    | some op => runWord op (s.setOpcode op)

/-- The two bytes of a word are put where the next step fetches (the host's test interface; it stands for `load()`). -/
def State.placeWord (s : State) (bytes : List Byte) : State := s.pokeList s.pc.toNat bytes

end Sys2Proof.Machine
end

