-- ==== Sys2Proof/Machine/Step.lean ====
section
/-! DEFINITION. One step of the machine, and the host's way to place one instruction where the next step fetches it. -/

namespace Sys2Proof.Machine

/-- `step()` (`30_encoding.md` R66). -/
def step (s : State) : Host.Outcome State Fault Refusal := cycle s

/-- The state with an instruction word, numbered as `spec/opcode_table.json` numbers its bits, stored at pc. -/
def State.withFetchWord (s : State) (nbits w : Nat) : State := s.placeWord (tableBytes nbits w)

end Sys2Proof.Machine
end

