-- ==== Sys2Proof/WellFormed.lean ====
section
/-!
DEFINITION. What well-formedness is left to check once operand widths are carried by their types.

Every term of `Instr` is well formed: each operand field has exactly the width R62 gives it, and "no selector can be out of range"
(`10_state.md` R20). So the checks are those on the values the host supplies: the configuration (`00_scope.md` R7) and the program
image given to `load()` (`70_reset_and_hazards.md` R159).
-/

namespace Sys2Proof

/-- A configuration R7 allows: `UNK_W` is a positive integer, and `UNK_ADVANCE` is a set (no nibble listed twice). -/
def Config.wf (c : Config) : Bool :=
  decide (0 < c.unkWidth) && decide c.unkAdvance.Nodup

/-- `MAX_PROG` (R6): the largest program `load()` accepts, 4096 - 0x200 = 3584 bytes. -/
def maxProgram : Nat := 3584

/-- A program image `load()` accepts (R159). -/
def imageWf (bytes : List Byte) : Bool :=
  decide (bytes.length ≤ maxProgram)

end Sys2Proof
end

