-- ==== Sys2Proof/Machine/HostOps.lean ====
section
/-!
DEFINITION. The host's operations other than `step()` (`00_scope.md` R8, `70_reset_and_hazards.md` R156 to R160,
`60_exceptions.md` R143, R147), and one transition of the machine per operation. The core never acts on its own, so the sequence of
operations is the host's (R144, decision D32): the model schedules none.
-/

namespace Sys2Proof.Machine

/-- `reset()` (R156, R157): legal in every state, never refused, independent of the state before. The configuration is fixed for the
life of the core and the random source is outside it, so those two fields of the model's own stay (assumption log 1, 2). -/
def hostReset (s : State) : State := State.resetWith s.cfg s.draws

/-- The refusal of every operation but `reset()` before the first `reset()` (R155). -/
def State.afterReset (s : State) (r : Result) : Result := if s.init = false then .refused .notReset else r

/-- `load(bytes)` (R158, R159): the bytes go to `0x200` up and nothing else changes; more than 3584 bytes are `RomTooLarge`, before
any byte is written. It works in the halted state too (R137). -/
def hostLoad (bytes : List Byte) (s : State) : Result :=
  s.afterReset (if imageWf bytes then .next (s.pokeList 0x200 bytes) else .refused .romTooLarge)

/-- One tick of an 8-bit down-counter that stops at 0 (R143). -/
def countDown (b : Byte) : Byte := if b = 0 then 0 else b - 1

/-- The state a tick leaves: both timers counted down, independently (R143). -/
def State.ticked (s : State) : State := { s with DT := countDown s.DT, ST := countDown s.ST }

/-- `tick()` (R143); it works in the halted state too (R137). -/
def hostTick (s : State) : Result := s.afterReset (.next s.ticked)

/-- All sixteen key flags replaced (R147). -/
def State.setKeys (s : State) (k : Vector Bool 16) : State := { s with key := k }

/-- `set_keys(k)` (R147); it works in the halted state too (R137). -/
def hostSetKeys (k : Vector Bool 16) (s : State) : Result := s.afterReset (.next (s.setKeys k))

/-- An operation of the host (R8, R170). -/
inductive HostOp where
  | reset
  | load (bytes : List Byte)
  | step
  | tick
  | setKeys (k : Vector Bool 16)
  deriving DecidableEq, Repr

/-- One operation is one transition (R8). -/
def HostOp.run : HostOp → State → Result
  | .reset, s => .next (hostReset s)
  | .load bytes, s => hostLoad bytes s
  | .step, s => Sys2Proof.Machine.step s
  | .tick, s => hostTick s
  | .setKeys k, s => hostSetKeys k s

/-- A schedule of the host, each operation on the state the one before it left; a refused operation leaves the state as it was, and
the host goes on (R155, R137, R159). -/
def runSchedule : List HostOp → State → State
  | [], s => s
  | o :: os, s =>
    match o.run s with
    | .next t => runSchedule os t
    | .refused _ => runSchedule os s

/-! ## Outputs that are functions of the state -/

/-- `sound_active` (R36): a level, 1 when `ST > 0`. -/
def State.soundActive (s : State) : Bool := decide (0 < s.ST.toNat)

/-- The framebuffer output `fb[x][y]` (R148). -/
def State.pixel (s : State) (p : Pixel) : Bool := s.fb.get p

end Sys2Proof.Machine
end

