-- ==== Sys2Proof/Machine/Report.lean ====
section
/-!
DEFINITION. What `step()` returns to the host (`30_encoding.md` R66, decision D26): the result name, with the word or the fault's
info value (`60_exceptions.md` R132), and the number of virtual cycles. It is no state: the info value is "recomputed from the halted
state", as R132 says.
-/

namespace Sys2Proof.Machine

/-- The results of R66. -/
inductive StepReport where
  | executed
  | unrecognized (op : Word)
  | faulted (k : FaultKind) (info : Option Nat)
  | refused (r : Refusal)
  deriving DecidableEq, Repr

/-- How many bytes an instruction touches through `I` (R50, R132). -/
def accessLength : Instr → Nat
  | .drw _ _ n => n.toNat
  | .ldBVx _ => 3
  | .ldMemVx x => x.toNat + 1
  | .ldVxMem x => x.toNat + 1
  | _ => 0

/-- The info value of a fault (the column "info" of R132), from the halted state. -/
def faultInfo (k : FaultKind) (s : State) : Option Nat :=
  match k with
  | .stackOverflow => none
  | .stackUnderflow => none
  | .memOutOfRange => (decodeWord s.opcode).map (fun i => s.I.toNat + accessLength i - 1)
  | .fetchOutOfRange => some s.pc.toNat
  | .keyIndexOutOfRange => some (s.readV (fieldX s.opcode)).toNat
  | .drawOutOfRange => none

/-- What a step that answered the state `t` reports. -/
def reportOf (t : State) : StepReport :=
  match t.fault with
  | some k => .faulted k (faultInfo k t)
  | none => if (decodeWord t.opcode).isSome then .executed else .unrecognized t.opcode

/-- The result `step()` returns in the state `s`. -/
def report (s : State) : StepReport :=
  match step s with
  | .next t => reportOf t
  | .refused r => .refused r

/-- The virtual cycles `step()` returns: 1, and 0 for a refused step (R66, R169). -/
def cycles : StepReport → Nat
  | .executed => 1
  | .unrecognized _ => 1
  | .faulted _ _ => 1
  | .refused _ => 0

end Sys2Proof.Machine
end

