-- ==== Sys2Proof/Safety.lean ====
section
/-!
DEFINITION. The terms the claims use: the elements of the state and what it means that an instruction changes only some of them
(`00_scope.md` R16), the invariant of the machine, and what a running, halted, stalled or finished core is
(`60_exceptions.md` R137, `30_encoding.md` R72, `70_reset_and_hazards.md` R173).
-/

namespace Sys2Proof.Machine

/-! ## Frames -/

/-- An element of the state: those of `10_state.md` R34, each register, key, pixel and byte one by one, and the two fields of the
model's own. -/
inductive Elem where
  | reg (r : Reg)
  | I
  | pc
  | sp
  | stackEntry (j : Fin 16)
  | DT
  | ST
  | key (j : Fin 16)
  | pixel (p : Pixel)
  | byte (a : Nat)
  | opcode
  | init
  | fault
  | unkCount
  | cfg
  | draws
  deriving DecidableEq, Repr

/-- The element has the same value in both states; a byte of memory is compared through the model's read of one byte. -/
def Elem.same (s t : State) : Elem → Prop
  | .reg r => t.readV r = s.readV r
  | .I => t.I = s.I
  | .pc => t.pc = s.pc
  | .sp => t.sp = s.sp
  | .stackEntry j => t.stack[j.val] = s.stack[j.val]
  | .DT => t.DT = s.DT
  | .ST => t.ST = s.ST
  | .key j => t.key[j.val] = s.key[j.val]
  | .pixel p => t.pixel p = s.pixel p
  | .byte a => t.peek a = s.peek a
  | .opcode => t.opcode = s.opcode
  | .init => t.init = s.init
  | .fault => t.fault = s.fault
  | .unkCount => t.unkCount = s.unkCount
  | .cfg => t.cfg = s.cfg
  | .draws => t.draws = s.draws

/-- Between `s` and `t` at most the elements that satisfy `changed` differ (R16). -/
def ChangesOnly (s t : State) (changed : Elem → Prop) : Prop :=
  ∀ e : Elem, ¬ changed e → e.same s t

/-! ## Encodings (R61, R64) -/

/-- Every word that matches a row of the opcode table decodes to the instruction read off its fields. -/
def WordsDecodeTo (mask value : Word) (i : Word → Instr) : Prop :=
  ∀ op : Word, op &&& mask = value → decodeWord op = some (i op)

/-! ## Sprites (R116 to R120) -/

/-- A set sprite bit at column `x`, row `y` (both counted from the grid's origin, possibly beyond it) has the target `p`: both
coordinates modulo the grid in `wrap` mode (R118), the very coordinates in the other modes (R119, R120). -/
def Targets (edge : DrawEdge) (x y : Nat) (p : Pixel) : Prop :=
  match edge with
  | .wrap => p.1.val = x % 64 ∧ p.2.val = y % 32
  | .clip => p.1.val = x ∧ p.2.val = y
  | .fault => p.1.val = x ∧ p.2.val = y

/-- `p` is the target of some set bit of the sprite of `n` rows at `I`, drawn with its first pixel at column `x0`, row `y0`: the bit
`7 - c` of the byte at `I + r` is the sprite's column `c`, row `r` (R117, decision D18). -/
def Covered (s : State) (x0 y0 n : Nat) (p : Pixel) : Prop :=
  ∃ r < n, ∃ c < 8, (s.peek (s.addr r)).getLsbD (7 - c) = true ∧ Targets s.cfg.drawEdge (x0 + c) (y0 + r) p

/-- The 8 by `n` rectangle at column `x0`, row `y0` does not fit in the grid (R120). -/
def BeyondGrid (x0 y0 n : Nat) : Prop := 56 < x0 ∨ 32 < y0 + n

/-! ## The invariant -/

/-- What every operation of the host keeps. -/
structure State.Inv (s : State) : Prop where
  /-- memory is in its canonical form, inside `0x000` to `0xFFF` -/
  mem_wf : s.mem.wf s.cfg.font
  /-- pc never wraps: the largest value an instruction can produce is `0xFFF + 0xFF` (`10_state.md` R23) -/
  pc_le : s.pc.toNat ≤ 0x10FE
  /-- a stack entry is the address of a call, so never exceeds `0xFFE` (`40_flow_control.md` R82) -/
  stack_le : ∀ j : Fin 16, s.stack[j.val].toNat ≤ 0xFFE
  /-- the counter fits its width (`10_state.md` R32) -/
  unk_le : s.unkCount ≤ 2 ^ s.cfg.unkWidth - 1

/-! ## Running, halted, stalled, finished -/

/-- The core executes: it has been reset and no fault is recorded (R163). -/
def State.running (s : State) : Bool := s.init && decide (s.fault = none)

/-- The core is halted (R137). -/
def State.halted (s : State) : Bool := decide (s.fault ≠ none)

/-- A run has ended successfully (R173, decision D29): no fault, and the word at pc is a jump to itself. -/
def State.finished (s : State) : Bool :=
  s.running &&
    match s.fetch16 with
    | none => false
    | some op =>
      match decodeWord op with
      | some (.jp nnn) => decide (zext16 nnn = s.pc)
      | _ => false

/-- The next step leaves pc where it is and the same word is fetched again: an unrecognized word outside the families of
`UNK_ADVANCE`, or `FX0A` with no key pressed (R72, R125). A hang of the program, never an end of a run. -/
def State.stalled (s : State) : Bool :=
  s.running &&
    match s.fetch16 with
    | none => false
    | some op =>
      match decodeWord op with
      | none => decide (fieldF op ∉ s.cfg.unkAdvance)
      | some (.ldVxK _) => s.firstKey.isNone
      | some _ => false

/-- A safe step: it is not refused and records no fault. -/
def State.safe (s : State) : Bool :=
  match step s with
  | .next t => decide (t.fault = none)
  | .refused _ => false

end Sys2Proof.Machine
end

