-- ==== Sys2Proof/Certificates/Slice0/Obligations.lean ====
section
/-!
DEFINITION. The statements for the provers. Each docstring says which rule of `spec/` it formalises; a clause that rests on one of the
spec's own decisions D<n>, or on a choice of the model, names the decision and the log entry.

`ChangesOnly s t c` says that between `s` and `t` at most the elements of the state that satisfy `c` differ: every register, every
special register, the stack, the keys, every pixel and every byte of memory (read through the model's own read of a byte). That an
instruction changes nothing its rule does not name is `00_scope.md` R16, decision D23, log 21.
-/

open Sys2Proof Sys2Proof.Machine

/-! ## Encoding -/

/-- Every instruction, with every operand at every value, decodes back from the two bytes of its word, whatever bytes follow.
`30_encoding.md` sections 1 to 3 (R60 to R65; the exact match is decision D12, log 17). -/
def Obligations.DecodingAnEncodedInstructionGivesItBack : Prop :=
  ∀ (i : Instr) (rest : List Byte), decode (bytesOfWord (encode i) ++ rest) = .instr i rest

/-- A word that decodes is the encoding of what it decodes to, so no two words stand for one instruction.
`30_encoding.md` sections 1 to 3 (decision D12, log 17). -/
def Obligations.EncodingADecodedWordGivesTheWordBack : Prop :=
  ∀ (op : Word) (i : Instr), decodeWord op = some i → encode i = op

/-- The table has 34 rows, no word matches two of them, a word decodes exactly when it matches a row, and then to an instruction of
that row. `30_encoding.md` section 3, R64 (with the exact match of R65, decision D12, log 17). -/
def Obligations.WordDecodesExactlyWhenItMatchesARow : Prop :=
  opcodeTable.length = 34 ∧
  (∀ (op : Word) (r r' : OpcodeRow), r ∈ opcodeTable → r' ∈ opcodeTable →
    op &&& r.mask = r.value → op &&& r'.mask = r'.value → r = r') ∧
  (∀ op : Word, (∃ i, decodeWord op = some i) ↔ ∃ r ∈ opcodeTable, op &&& r.mask = r.value) ∧
  (∀ (op : Word) (i : Instr), decodeWord op = some i → i.row ∈ opcodeTable ∧ op &&& i.row.mask = i.row.value)

/-- Words written out from the patterns of R64 and the examples of files 40 to 44 decode to the instructions they stand for; words
of R70 decode to nothing. -/
def Obligations.WrittenOutWordsDecodeAsTheTableSays : Prop :=
  decodeWord 0x00E0 = some .cls ∧ decodeWord 0x00EE = some .ret ∧ decodeWord 0x1ABC = some (.jp 0xABC) ∧
  decodeWord 0x2208 = some (.call 0x208) ∧ decodeWord 0xB300 = some (.jpV0 0x300) ∧
  decodeWord 0x4311 = some (.sneVxNn 3 0x11) ∧ decodeWord 0x5290 = some (.seVxVy 2 9) ∧
  decodeWord 0x6A05 = some (.ldVxNn 10 0x05) ∧ decodeWord 0x8014 = some (.addVxVy 0 1) ∧
  decodeWord 0x820E = some (.shl 2 0) ∧ decodeWord 0xA300 = some (.ldINnn 0x300) ∧
  decodeWord 0xC30F = some (.rnd 3 0x0F) ∧ decodeWord 0xD125 = some (.drw 1 2 5) ∧
  decodeWord 0xE59E = some (.skp 5) ∧ decodeWord 0xF21E = some (.addIVx 2) ∧ decodeWord 0xF255 = some (.ldMemVx 2) ∧
  decodeWord 0x5121 = none ∧ decodeWord 0x8018 = none ∧ decodeWord 0xF256 = none ∧ decodeWord 0x0000 = none

/-! ## The step -/

/-- A step runs the decoded instruction: on a core that is reset and not halted, when the two bytes at pc decode to `i`, the step is
the meaning of `i` on the state in which `opcode` holds the word. `30_encoding.md` section 4 (R66, R67), `20_memory.md` section 3. -/
def Obligations.StepRunsTheDecodedInstruction : Prop :=
  ∀ (s : State) (i : Instr), s.init = true → s.fault = none → s.pc.toNat ≤ 0xFFE →
    decode [s.peek s.pc.toNat, s.peek (s.pc.toNat + 1)] = .instr i [] →
    step s = exec i { s with opcode := s.peek s.pc.toNat ++ s.peek (s.pc.toNat + 1) }

/-- A step is refused exactly before the first reset (`NotReset`) and while a fault is recorded (`Halted`); no instruction is refused.
`60_exceptions.md` sections 2 and 3, `70_reset_and_hazards.md` section 1 (decisions D2, D3, D33; log 3, 4, 27). -/
def Obligations.StepIsRefusedExactlyWhenNotResetOrHalted : Prop :=
  ∀ s : State,
    (step s = .refused .notReset ↔ s.init = false) ∧
    (step s = .refused .halted ↔ s.init = true ∧ s.fault ≠ none) ∧
    (∀ r, step s = .refused r → r = .notReset ∨ r = .halted)

/-- A fetch at pc above `0xFFE` records `FetchOutOfRange` (code 4), changes nothing else, not even `opcode`, and halts the core.
`20_memory.md` section 5 (decision D7, log 13). -/
def Obligations.FetchBeyondMemoryFaults : Prop :=
  ∀ s : State, s.init = true → s.fault = none → 0xFFE < s.pc.toNat →
    ∃ t, step s = .next t ∧ t.fault = some .fetchOutOfRange ∧ t.faultCode = 4 ∧
      ChangesOnly s t (fun e => e = .fault) ∧ step t = .refused .halted ∧
      report s = .faulted .fetchOutOfRange (some s.pc.toNat)

/-- A word that matches no row of the table is counted (saturating) and reported, goes to `opcode`, and leaves pc where it is unless its
family is in `UNK_ADVANCE`; nothing else changes. `30_encoding.md` section 5 (decisions D13, D14; log 8, 9). -/
def Obligations.UnrecognizedWordIsCountedAndStalls : Prop :=
  ∀ (s : State) (op : Word), s.init = true → s.fault = none → s.pc.toNat ≤ 0xFFE →
    op = s.peek s.pc.toNat ++ s.peek (s.pc.toNat + 1) → (∀ r ∈ opcodeTable, op &&& r.mask ≠ r.value) →
    ∃ t, step s = .next t ∧ t.opcode = op ∧ t.unkCount = min (s.unkCount + 1) (2 ^ s.cfg.unkWidth - 1) ∧
      t.pc = (if op.extractLsb' 12 4 ∈ s.cfg.unkAdvance then s.pc + 2 else s.pc) ∧
      ChangesOnly s t (fun e => e = .opcode ∨ e = .unkCount ∨ e = .pc) ∧ report s = .unrecognized op

/-- No instruction is refused in any state: each either completes or records a fault. `60_exceptions.md` section 7 ("Every instruction is
available at all times"). -/
def Obligations.EveryInstructionAnswersANextState : Prop :=
  ∀ (i : Instr) (s : State), ∃ t, exec i s = .next t ∧ (t.fault = s.fault ∨ t = { s with fault := t.fault })

/-- No instruction writes the keys, `init`, `opcode` or `unk_count` (`10_state.md` sections 7, 10, 11 and 12), nor the configuration
(`00_scope.md` section 4; held in the model's own field `cfg`, log 1). -/
def Obligations.NoInstructionWritesHostOwnedState : Prop :=
  ∀ (i : Instr) (s t : State), exec i s = .next t →
    t.key = s.key ∧ t.init = s.init ∧ t.opcode = s.opcode ∧ t.unkCount = s.unkCount ∧ t.cfg = s.cfg

/-- `I`, `sp`, the stack, `DT`, `ST`, the framebuffer, memory and the position in the random stream are each written by the instructions
the spec lists for it and by no other. `10_state.md` sections 3 to 9 and 12, `20_memory.md` section 6, `00_scope.md` section 6 (R16,
decisions D22, D23; log 21); the random stream by `41_register_alu.md` section 4 (decision D24; the model's own field `draws`, log 2). -/
def Obligations.OnlyTheListedInstructionsWriteEachElement : Prop :=
  ∀ (i : Instr) (s t : State), exec i s = .next t →
    (t.I ≠ s.I → (∃ nnn, i = .ldINnn nnn) ∨ (∃ x, i = .addIVx x) ∨ ∃ x, i = .ldFVx x) ∧
    (t.sp ≠ s.sp → i = .ret ∨ ∃ nnn, i = .call nnn) ∧
    (t.stack ≠ s.stack → ∃ nnn, i = .call nnn) ∧
    (t.DT ≠ s.DT → ∃ x, i = .ldDtVx x) ∧
    (t.ST ≠ s.ST → ∃ x, i = .ldStVx x) ∧
    (t.fb ≠ s.fb → i = .cls ∨ ∃ x y n, i = .drw x y n) ∧
    (t.mem ≠ s.mem → (∃ x, i = .ldBVx x) ∨ ∃ x, i = .ldMemVx x) ∧
    (t.draws ≠ s.draws → ∃ x nn, i = .rnd x nn)

/-- No instruction reads `ST`, `opcode` or `unk_count`: from states that differ only there an instruction goes on in the same way, and the
three keep their values, but for `ST` after `FX18`. `10_state.md` sections 6, 10, 11 and 14. -/
def Obligations.NoInstructionReadsSoundTimerOrDiagnostics : Prop :=
  ∀ (i : Instr) (s t : State) (b : Byte) (w : Word) (n : Nat), exec i s = .next t →
    ((∀ x, i ≠ .ldStVx x) → exec i { s with ST := b, opcode := w, unkCount := n } =
      .next { t with ST := b, opcode := w, unkCount := n }) ∧
    ((∃ x, i = .ldStVx x) → exec i { s with ST := b, opcode := w, unkCount := n } =
      .next { t with opcode := w, unkCount := n })

/-- Only returns, jumps, calls, skips and `FX0A` can leave pc anything but pc + 2, and an instruction that faults leaves pc where it is.
`40_flow_control.md` section 3, `30_encoding.md` section 4. -/
def Obligations.OnlyControlTransfersLeavePcOtherThanPlusTwo : Prop :=
  ∀ (i : Instr) (s t : State), s.fault = none → exec i s = .next t →
    (t.fault ≠ none → t.pc = s.pc) ∧
    (t.fault = none → t.pc ≠ s.pc + 2 →
      i = .ret ∨ (∃ nnn, i = .jp nnn ∨ i = .call nnn ∨ i = .jpV0 nnn) ∨ (∃ x nn, i = .seVxNn x nn ∨ i = .sneVxNn x nn) ∨
        (∃ x y, i = .seVxVy x y ∨ i = .sneVxVy x y) ∨ ∃ x, i = .skp x ∨ i = .sknp x ∨ i = .ldVxK x)

/-- Each fault is recorded exactly under the condition the fault table gives for it, `DrawOutOfRange` before `MemOutOfRange`.
`60_exceptions.md` sections 1 and 2 (decisions D5, D6, D17, D20, D33; log 7, 12, 13, 18, 27). -/
def Obligations.EachFaultIsRecordedExactlyOnItsCondition : Prop :=
  ∀ (i : Instr) (s t : State), s.fault = none → exec i s = .next t →
    (t.fault = some .stackOverflow ↔ (∃ nnn, i = .call nnn) ∧ s.sp.val = 16) ∧
    (t.fault = some .stackUnderflow ↔ i = .ret ∧ s.sp.val = 0) ∧
    (t.fault = some .memOutOfRange ↔
      (∃ x, i = .ldBVx x ∧ 0xFFF < s.I.toNat + 2) ∨
      (∃ x : Reg, (i = .ldMemVx x ∨ i = .ldVxMem x) ∧ 0xFFF < s.I.toNat + x.toNat) ∨
      ∃ x y n, i = .drw x y n ∧ 0 < n.toNat ∧ 0xFFF < s.I.toNat + n.toNat - 1 ∧
        ¬(s.cfg.drawEdge = .fault ∧ BeyondGrid (s.readV x).toNat (s.readV y).toNat n.toNat)) ∧
    (t.fault = some .keyIndexOutOfRange ↔ ∃ x, (i = .skp x ∨ i = .sknp x) ∧ 15 < (s.readV x).toNat) ∧
    (t.fault = some .drawOutOfRange ↔ ∃ x y n, i = .drw x y n ∧ 0 < n.toNat ∧ s.cfg.drawEdge = .fault ∧
      BeyondGrid (s.readV x).toNat (s.readV y).toNat n.toNat) ∧
    t.fault ≠ some .fetchOutOfRange

/-- Faults are precise: a step that records a fault changes only `fault` and `opcode`, and the next step is refused with `Halted`.
`60_exceptions.md` section 3 (decisions D3, D4; log 3, 13). -/
def Obligations.FaultingStepChangesOnlyFaultAndOpcode : Prop :=
  ∀ s t : State, step s = .next t → t.fault ≠ none →
    t.mem = s.mem ∧ ChangesOnly s t (fun e => e = .fault ∨ e = .opcode) ∧ step t = .refused .halted

/-- The result of a faulting step carries the info value of the fault table: the last address, or the value of the register.
`60_exceptions.md` section 1, `30_encoding.md` section 4 (decision D26, log 26). -/
def Obligations.ReportCarriesTheFaultInfo : Prop :=
  ∀ (s : State) (i : Instr), s.init = true → s.fault = none → s.pc.toNat ≤ 0xFFE →
    decodeWord (s.peek s.pc.toNat ++ s.peek (s.pc.toNat + 1)) = some i →
    (∀ x, i = .ldBVx x → 0xFFF < s.I.toNat + 2 → report s = .faulted .memOutOfRange (some (s.I.toNat + 2))) ∧
    (∀ x : Reg, i = .ldMemVx x ∨ i = .ldVxMem x → 0xFFF < s.I.toNat + x.toNat →
      report s = .faulted .memOutOfRange (some (s.I.toNat + x.toNat))) ∧
    (∀ x y n, i = .drw x y n → 0 < n.toNat → 0xFFF < s.I.toNat + n.toNat - 1 →
      ¬(s.cfg.drawEdge = .fault ∧ BeyondGrid (s.readV x).toNat (s.readV y).toNat n.toNat) →
      report s = .faulted .memOutOfRange (some (s.I.toNat + n.toNat - 1))) ∧
    (∀ x, i = .skp x ∨ i = .sknp x → 15 < (s.readV x).toNat →
      report s = .faulted .keyIndexOutOfRange (some (s.readV x).toNat)) ∧
    (∀ x y n, i = .drw x y n → 0 < n.toNat → s.cfg.drawEdge = .fault →
      BeyondGrid (s.readV x).toNat (s.readV y).toNat n.toNat → report s = .faulted .drawOutOfRange none) ∧
    (i = .ret → s.sp.val = 0 → report s = .faulted .stackUnderflow none) ∧
    (∀ nnn, i = .call nnn → s.sp.val = 16 → report s = .faulted .stackOverflow none)

/-! ## Reset and the invariant -/

/-- `reset()` gives every element of the state its reset value, in every state, and leaves the configuration.
`70_reset_and_hazards.md` section 2. `opcode`, `fault`, `unk_count` and `init` are the last line of the reset procedure, the spec's own
(decisions D2, D3, D14; log 3, 9, 24); that the configuration stays is the model's inference (log 1, 28). The contents of the font region
are the parameter `FONT`, whatever its bytes. -/
def Obligations.ResetGivesEveryElementItsValue : Prop :=
  ∀ s : State, ∃ t, HostOp.reset.run s = .next t ∧
    (∀ r, t.readV r = 0) ∧ t.I = 0 ∧ t.pc = 0x0200 ∧ t.sp.val = 0 ∧ (∀ j : Fin 16, t.stack[j.val] = 0) ∧ t.DT = 0 ∧ t.ST = 0 ∧
    (∀ j : Fin 16, t.key[j.val] = false) ∧ (∀ p, t.pixel p = false) ∧
    (∀ a (h : a < 80), t.peek a = s.cfg.font[a]) ∧ (∀ a, 80 ≤ a → a ≤ 0xFFF → t.peek a = 0) ∧
    t.opcode = 0 ∧ t.fault = none ∧ t.unkCount = 0 ∧ t.init = true ∧ t.cfg = s.cfg

/-- `reset()` forgets the history: after any schedule of host operations it leaves the state a reset before them would have left, but
for the position in the random stream, which is the model's own field (log 2). `70_reset_and_hazards.md` section 2 (R157). -/
def Obligations.ResetForgetsEveryHistory : Prop :=
  ∀ (os : List HostOp) (s : State), { hostReset (runSchedule os s) with draws := s.draws } = hostReset s

/-- The state right after reset, on every core, satisfies the invariant `State.Inv`. -/
def Obligations.ResetStateSatisfiesInv : Prop :=
  State.reset.Inv ∧ ∀ s : State, (hostReset s).Inv

/-- Every step keeps the invariant: memory in canonical form and inside 4096 bytes, pc at most `0x10FE`, stack entries at most `0xFFE`,
the counter inside its width. `10_state.md` section 4 (R23 [derived]), `40_flow_control.md` section 1, `10_state.md` section 11. -/
def Obligations.EveryStepKeepsInv : Prop :=
  ∀ s t : State, s.Inv → step s = .next t → t.Inv

/-- The invariant holds after every schedule of host operations, so for every program loaded at any time, every key and tick.
`00_scope.md` section 5, `70_reset_and_hazards.md` section 7. -/
def Obligations.EveryHostScheduleKeepsInv : Prop :=
  ∀ (os : List HostOp) (s : State), s.Inv → (runSchedule os s).Inv

/-! ## Control transfer -/

/-- `00EE` (R80): with an entry in use, pop and continue after the call; with none, `StackUnderflow` and nothing else.
The frame clause is R16's, decision D23, log 21. -/
def Obligations.ReturnPopsAndContinuesAfterTheCall : Prop :=
  (∀ s : State, (h : 0 < s.sp.val) →
    ∃ t, exec .ret s = .next t ∧ t.sp.val = s.sp.val - 1 ∧
      t.pc = s.stack[s.sp.val - 1]'(by have := s.sp.isLt; omega) + 2 ∧
      ChangesOnly s t (fun e => e = .pc ∨ e = .sp)) ∧
  (∀ s : State, s.sp.val = 0 →
    ∃ t, exec .ret s = .next t ∧ t.fault = some .stackUnderflow ∧ ChangesOnly s t (fun e => e = .fault))

/-- `1NNN` (R81): pc takes the address; nothing else changes.
The frame clause is R16's, decision D23, log 21. -/
def Obligations.JumpSetsPcOnly : Prop :=
  ∀ (nnn : Addr12) (s : State),
    ∃ t, exec (.jp nnn) s = .next t ∧ t.pc.toNat = nnn.toNat ∧ ChangesOnly s t (fun e => e = .pc)

/-- `2NNN` (`40_flow_control.md` section 1; the limit of 16 is decision D5, log 12): push the address of the call, pc takes the address;
with 16 entries in use, `StackOverflow` and nothing else.
The frame clause is R16's, decision D23, log 21. -/
def Obligations.CallPushesItsOwnAddress : Prop :=
  (∀ (nnn : Addr12) (s : State), (h : s.sp.val < 16) →
    ∃ t, exec (.call nnn) s = .next t ∧ t.stack[s.sp.val] = s.pc ∧ t.sp.val = s.sp.val + 1 ∧ t.pc.toNat = nnn.toNat ∧
      ChangesOnly s t (fun e => e = .pc ∨ e = .sp ∨ e = .stackEntry ⟨s.sp.val, h⟩)) ∧
  (∀ (nnn : Addr12) (s : State), s.sp.val = 16 →
    ∃ t, exec (.call nnn) s = .next t ∧ t.fault = some .stackOverflow ∧ ChangesOnly s t (fun e => e = .fault))

/-- A return on the stack a call left continues two bytes after the call and gives back the stack depth.
`40_flow_control.md` section 1. -/
def Obligations.ReturnAfterCallContinuesBehindIt : Prop :=
  ∀ (nnn : Addr12) (s t u : State), s.sp.val < 16 → exec (.call nnn) s = .next t → u.sp = t.sp → u.stack = t.stack →
    ∃ w, exec .ret u = .next w ∧ w.pc = s.pc + 2 ∧ w.sp = s.sp ∧ w.stack = t.stack

/-- `BNNN` (R83): pc takes NNN + V0, not reduced; nothing else changes.
The frame clause is R16's, decision D23, log 21. -/
def Obligations.JumpWithOffsetAddsV0 : Prop :=
  ∀ (nnn : Addr12) (s : State),
    ∃ t, exec (.jpV0 nnn) s = .next t ∧ t.pc.toNat = nnn.toNat + (s.readV 0).toNat ∧ ChangesOnly s t (fun e => e = .pc)

/-- `3XNN`, `4XNN` (R84, R85), `5XY0`, `9XY0` (`40_flow_control.md` section 2), with their encodings: pc + 4 when the condition holds, pc + 2 when not; nothing else changes.
The frame clause is R16's, decision D23, log 21. -/
def Obligations.RegisterSkipsMovePcByFourOrTwo : Prop :=
  WordsDecodeTo 0xF000 0x3000 (fun op => .seVxNn (fieldX op) (fieldNN op)) ∧
  WordsDecodeTo 0xF000 0x4000 (fun op => .sneVxNn (fieldX op) (fieldNN op)) ∧
  WordsDecodeTo 0xF00F 0x5000 (fun op => .seVxVy (fieldX op) (fieldY op)) ∧
  WordsDecodeTo 0xF00F 0x9000 (fun op => .sneVxVy (fieldX op) (fieldY op)) ∧
  (∀ (x : Reg) (nn : Byte) (s : State), ∃ t, exec (.seVxNn x nn) s = .next t ∧
    (s.readV x = nn → t.pc = s.pc + 4) ∧ (s.readV x ≠ nn → t.pc = s.pc + 2) ∧ ChangesOnly s t (fun e => e = .pc)) ∧
  (∀ (x : Reg) (nn : Byte) (s : State), ∃ t, exec (.sneVxNn x nn) s = .next t ∧
    (s.readV x ≠ nn → t.pc = s.pc + 4) ∧ (s.readV x = nn → t.pc = s.pc + 2) ∧ ChangesOnly s t (fun e => e = .pc)) ∧
  (∀ (x y : Reg) (s : State), ∃ t, exec (.seVxVy x y) s = .next t ∧
    (s.readV x = s.readV y → t.pc = s.pc + 4) ∧ (s.readV x ≠ s.readV y → t.pc = s.pc + 2) ∧
    ChangesOnly s t (fun e => e = .pc)) ∧
  (∀ (x y : Reg) (s : State), ∃ t, exec (.sneVxVy x y) s = .next t ∧
    (s.readV x ≠ s.readV y → t.pc = s.pc + 4) ∧ (s.readV x = s.readV y → t.pc = s.pc + 2) ∧
    ChangesOnly s t (fun e => e = .pc))

/-! ## Register loads, arithmetic, logic, shifts, random -/

/-- `6XNN` and `8XY0` (R90, R92), with their encodings: the register takes the byte, or the other register's value; only it and pc change.
The frame clause is R16's, decision D23, log 21. -/
def Obligations.RegisterLoadsWriteTheirDestination : Prop :=
  WordsDecodeTo 0xF000 0x6000 (fun op => .ldVxNn (fieldX op) (fieldNN op)) ∧
  WordsDecodeTo 0xF00F 0x8000 (fun op => .ldVxVy (fieldX op) (fieldY op)) ∧
  (∀ (x : Reg) (nn : Byte) (s : State), ∃ t, exec (.ldVxNn x nn) s = .next t ∧ t.readV x = nn ∧ t.pc = s.pc + 2 ∧
    ChangesOnly s t (fun e => e = .pc ∨ e = .reg x)) ∧
  (∀ (x y : Reg) (s : State), ∃ t, exec (.ldVxVy x y) s = .next t ∧ t.readV x = s.readV y ∧ t.pc = s.pc + 2 ∧
    ChangesOnly s t (fun e => e = .pc ∨ e = .reg x))

/-- `7XNN` (R91), with its encoding: the sum modulo 256, no flag; and after `6XNN` then `7X01` the register holds NN + 1 modulo 256.
The frame clause is R16's, decision D23, log 21. -/
def Obligations.AddByteWrapsWithoutAFlag : Prop :=
  WordsDecodeTo 0xF000 0x7000 (fun op => .addVxNn (fieldX op) (fieldNN op)) ∧
  (∀ (x : Reg) (nn : Byte) (s : State), ∃ t, exec (.addVxNn x nn) s = .next t ∧
    (t.readV x).toNat = ((s.readV x).toNat + nn.toNat) % 256 ∧ t.pc = s.pc + 2 ∧
    ChangesOnly s t (fun e => e = .pc ∨ e = .reg x)) ∧
  (∀ (x : Reg) (nn : Byte) (s : State), ∃ t u, exec (.ldVxNn x nn) s = .next t ∧ exec (.addVxNn x 1) t = .next u ∧
    (u.readV x).toNat = (nn.toNat + 1) % 256)

/-- `8XY1`, `8XY2`, `8XY3` (`41_register_alu.md` section 2): bitwise, and VF is not written unless it is the destination (decision D23,
log 21).
The frame clause is R16's, decision D23, log 21. -/
def Obligations.LogicIsBitwiseWithoutAFlag : Prop :=
  (∀ (x y : Reg) (s : State), ∃ t, exec (.orVxVy x y) s = .next t ∧
    (∀ k < 8, (t.readV x).getLsbD k = ((s.readV x).getLsbD k || (s.readV y).getLsbD k)) ∧ t.pc = s.pc + 2 ∧
    ChangesOnly s t (fun e => e = .pc ∨ e = .reg x)) ∧
  (∀ (x y : Reg) (s : State), ∃ t, exec (.andVxVy x y) s = .next t ∧
    (∀ k < 8, (t.readV x).getLsbD k = ((s.readV x).getLsbD k && (s.readV y).getLsbD k)) ∧ t.pc = s.pc + 2 ∧
    ChangesOnly s t (fun e => e = .pc ∨ e = .reg x)) ∧
  (∀ (x y : Reg) (s : State), ∃ t, exec (.xorVxVy x y) s = .next t ∧
    (∀ k < 8, (t.readV x).getLsbD k = ((s.readV x).getLsbD k ^^ (s.readV y).getLsbD k)) ∧ t.pc = s.pc + 2 ∧
    ChangesOnly s t (fun e => e = .pc ∨ e = .reg x))

/-- `8XY4` (`41_register_alu.md` section 3): VF takes the carry, then VX the sum modulo 256, each operand that is VF being the flag just
written (decision D15, log 11).
The frame clause is R16's, decision D23, log 21. -/
def Obligations.AddWritesCarryThenSum : Prop :=
  ∀ (x y : Reg) (s : State) (a b c : Nat), a = (s.readV x).toNat → b = (s.readV y).toNat →
    c = (if a + b > 255 then 1 else 0) →
    ∃ t, exec (.addVxVy x y) s = .next t ∧ (x ≠ VF → (t.readV VF).toNat = c) ∧
      (t.readV x).toNat = ((if x = VF then c else a) + (if y = VF then c else b)) % 256 ∧ t.pc = s.pc + 2 ∧
      ChangesOnly s t (fun e => e = .pc ∨ e = .reg x ∨ e = .reg VF)

/-- `8XY5` and `8XY7` (`41_register_alu.md` section 3): VF takes 1 when there is no borrow, equality included, then VX the difference
modulo 256, each operand that is VF being the flag just written (decision D15, log 11).
The frame clause is R16's, decision D23, log 21. -/
def Obligations.SubtractionsWriteNoBorrowThenDifference : Prop :=
  (∀ (x y : Reg) (s : State) (a b c : Nat), a = (s.readV x).toNat → b = (s.readV y).toNat → c = (if a ≥ b then 1 else 0) →
    ∃ t, exec (.sub x y) s = .next t ∧ (x ≠ VF → (t.readV VF).toNat = c) ∧
      (t.readV x).toNat = ((if x = VF then c else a) + 256 - (if y = VF then c else b)) % 256 ∧ t.pc = s.pc + 2 ∧
      ChangesOnly s t (fun e => e = .pc ∨ e = .reg x ∨ e = .reg VF)) ∧
  (∀ (x y : Reg) (s : State) (a b c : Nat), a = (s.readV x).toNat → b = (s.readV y).toNat → c = (if b ≥ a then 1 else 0) →
    ∃ t, exec (.subn x y) s = .next t ∧ (x ≠ VF → (t.readV VF).toNat = c) ∧
      (t.readV x).toNat = ((if y = VF then c else b) + 256 - (if x = VF then c else a)) % 256 ∧ t.pc = s.pc + 2 ∧
      ChangesOnly s t (fun e => e = .pc ∨ e = .reg x ∨ e = .reg VF))

/-- `8XY6` and `8XYE` (`41_register_alu.md` section 3) in both modes of `SHIFT_SOURCE`: VF takes the bit shifted out of the source, then
VX the source shifted by one, the source being the flag just written when it is VF (decisions D15, D16; log 10, 11).
The frame clause is R16's, decision D23, log 21. -/
def Obligations.ShiftsWriteTheLostBitThenTheShiftedSource : Prop :=
  (∀ (x y src : Reg) (s : State) (a c : Nat), src = (if s.cfg.shiftSource = .vy then y else x) → a = (s.readV src).toNat →
    c = a % 2 →
    ∃ t, exec (.shr x y) s = .next t ∧ (x ≠ VF → (t.readV VF).toNat = c) ∧
      (t.readV x).toNat = (if src = VF then c else a) / 2 ∧ t.pc = s.pc + 2 ∧
      ChangesOnly s t (fun e => e = .pc ∨ e = .reg x ∨ e = .reg VF)) ∧
  (∀ (x y src : Reg) (s : State) (a c : Nat), src = (if s.cfg.shiftSource = .vy then y else x) → a = (s.readV src).toNat →
    c = a / 128 →
    ∃ t, exec (.shl x y) s = .next t ∧ (x ≠ VF → (t.readV VF).toNat = c) ∧
      (t.readV x).toNat = 2 * (if src = VF then c else a) % 256 ∧ t.pc = s.pc + 2 ∧
      ChangesOnly s t (fun e => e = .pc ∨ e = .reg x ∨ e = .reg VF))

/-- The summary table of the cases with selector 15 (`41_register_alu.md` section 5, R103), `f` the old VF and `v` the other register, in
the default shift mode (decision D15, log 11). -/
def Obligations.SelectorFifteenCasesAreAsTabled : Prop :=
  ∀ (s : State) (f : Nat), f = (s.readV VF).toNat → s.cfg.shiftSource = .vx →
    (∀ (r : Reg) (v : Nat), r ≠ VF → v = (s.readV r).toNat →
      (∃ t, exec (.addVxVy VF r) s = .next t ∧ (t.readV VF).toNat = ((if f + v > 255 then 1 else 0) + v) % 256 ∧
        (t.readV r).toNat = v) ∧
      (∃ t, exec (.addVxVy r VF) s = .next t ∧ (t.readV VF).toNat = (if v + f > 255 then 1 else 0) ∧
        (t.readV r).toNat = (v + (if v + f > 255 then 1 else 0)) % 256) ∧
      (∃ t, exec (.sub VF r) s = .next t ∧ (t.readV VF).toNat = ((if f ≥ v then 1 else 0) + 256 - v) % 256 ∧
        (t.readV r).toNat = v) ∧
      (∃ t, exec (.sub r VF) s = .next t ∧ (t.readV VF).toNat = (if v ≥ f then 1 else 0) ∧
        (t.readV r).toNat = (v + 256 - (if v ≥ f then 1 else 0)) % 256) ∧
      (∃ t, exec (.subn VF r) s = .next t ∧ (t.readV VF).toNat = (v + 256 - (if v ≥ f then 1 else 0)) % 256 ∧
        (t.readV r).toNat = v) ∧
      (∃ t, exec (.subn r VF) s = .next t ∧ (t.readV VF).toNat = (if f ≥ v then 1 else 0) ∧
        (t.readV r).toNat = ((if f ≥ v then 1 else 0) + 256 - v) % 256) ∧
      (∃ t, exec (.shr VF r) s = .next t ∧ (t.readV VF).toNat = 0 ∧ (t.readV r).toNat = v) ∧
      (∃ t, exec (.shr r VF) s = .next t ∧ (t.readV VF).toNat = v % 2 ∧ (t.readV r).toNat = v / 2) ∧
      (∃ t, exec (.shl VF r) s = .next t ∧ (t.readV VF).toNat = 2 * (f / 128) ∧ (t.readV r).toNat = v) ∧
      (∃ t, exec (.shl r VF) s = .next t ∧ (t.readV VF).toNat = v / 128 ∧ (t.readV r).toNat = 2 * v % 256)) ∧
    (∃ t, exec (.addVxVy VF VF) s = .next t ∧ (t.readV VF).toNat = 2 * (if f ≥ 128 then 1 else 0)) ∧
    (∃ t, exec (.sub VF VF) s = .next t ∧ (t.readV VF).toNat = 0) ∧
    (∃ t, exec (.subn VF VF) s = .next t ∧ (t.readV VF).toNat = 0) ∧
    (∃ t, exec (.shr VF VF) s = .next t ∧ (t.readV VF).toNat = 0) ∧
    (∃ t, exec (.shl VF VF) s = .next t ∧ (t.readV VF).toNat = 2 * (f / 128))

/-- `CXNN` (`41_register_alu.md` section 4, decision D24, log 2): whatever byte the free source gives, VX takes it masked with NN, so
no bit outside NN is set; one byte is consumed.
The frame clause is R16's, decision D23, log 21. -/
def Obligations.RandomByteIsMaskedAndConsumed : Prop :=
  ∀ (x : Reg) (nn : Byte) (s : State), ∃ t, exec (.rnd x nn) s = .next t ∧
    t.readV x = Config.randomByte s.draws &&& nn ∧ t.readV x &&& ~~~nn = 0 ∧ t.draws = s.draws + 1 ∧ t.pc = s.pc + 2 ∧
    ChangesOnly s t (fun e => e = .pc ∨ e = .reg x ∨ e = .draws)

/-! ## Index and memory -/

/-- `ANNN` and `FX29` (R105, R107), with their encodings: I takes NNN, or VX * 5 with the whole byte multiplied; only I and pc change.
The frame clause is R16's, decision D23, log 21. -/
def Obligations.IndexLoadsWriteOnlyI : Prop :=
  WordsDecodeTo 0xF000 0xA000 (fun op => .ldINnn (fieldNNN op)) ∧
  WordsDecodeTo 0xF0FF 0xF029 (fun op => .ldFVx (fieldX op)) ∧
  (∀ (nnn : Addr12) (s : State), ∃ t, exec (.ldINnn nnn) s = .next t ∧ t.I.toNat = nnn.toNat ∧ t.pc = s.pc + 2 ∧
    ChangesOnly s t (fun e => e = .pc ∨ e = .I)) ∧
  (∀ (x : Reg) (s : State), ∃ t, exec (.ldFVx x) s = .next t ∧ t.I.toNat = (s.readV x).toNat * 5 ∧ t.pc = s.pc + 2 ∧
    ChangesOnly s t (fun e => e = .pc ∨ e = .I))

/-- `FX1E` (`42_index_memory.md` section 1): VF takes 1 when I + VX exceeds `0xFFF`, then I the sum modulo 65536, with the flag just
written when X is 15 (decisions D9, D15; log 11, 15).
The frame clause is R16's, decision D23, log 21. -/
def Obligations.AddToIndexWritesTheRangeFlagThenI : Prop :=
  ∀ (x : Reg) (s : State) (v o : Nat), v = (s.readV x).toNat → o = (if s.I.toNat + v > 0xFFF then 1 else 0) →
    ∃ t, exec (.addIVx x) s = .next t ∧ (t.readV VF).toNat = o ∧
      t.I.toNat = (s.I.toNat + (if x = VF then o else v)) % 65536 ∧ t.pc = s.pc + 2 ∧
      ChangesOnly s t (fun e => e = .pc ∨ e = .I ∨ e = .reg VF)

/-- `FX33` (R108): the three decimal digits at I, I + 1, I + 2; beyond memory, `MemOutOfRange` and nothing written.
The frame clause is R16's, decision D23, log 21. -/
def Obligations.DigitsAreStoredHundredsFirst : Prop :=
  (∀ (x : Reg) (s : State), s.I.toNat + 2 ≤ 0xFFF →
    ∃ t, exec (.ldBVx x) s = .next t ∧ (t.peek (s.addr 0)).toNat = (s.readV x).toNat / 100 ∧
      (t.peek (s.addr 1)).toNat = (s.readV x).toNat / 10 % 10 ∧ (t.peek (s.addr 2)).toNat = (s.readV x).toNat % 10 ∧
      t.pc = s.pc + 2 ∧ ChangesOnly s t (fun e => e = .pc ∨ ∃ k < 3, e = .byte (s.addr k))) ∧
  (∀ (x : Reg) (s : State), 0xFFF < s.I.toNat + 2 →
    ∃ t, exec (.ldBVx x) s = .next t ∧ t.fault = some .memOutOfRange ∧ ChangesOnly s t (fun e => e = .fault))

/-- `FX55` (`42_index_memory.md` section 2; decisions D4, D6, D22; log 13, 21): V0 to VX at I to I + X, I and the registers unchanged;
beyond memory, `MemOutOfRange` and nothing written, not even a prefix.
The frame clause is R16's, decision D23, log 21. -/
def Obligations.StoreRegistersWritesTheRunFromI : Prop :=
  (∀ (x : Reg) (s : State), s.I.toNat + x.toNat ≤ 0xFFF →
    ∃ t, exec (.ldMemVx x) s = .next t ∧ (∀ k : Reg, k.toNat ≤ x.toNat → t.peek (s.addr k.toNat) = s.readV k) ∧
      t.pc = s.pc + 2 ∧ ChangesOnly s t (fun e => e = .pc ∨ ∃ k ≤ x.toNat, e = .byte (s.addr k))) ∧
  (∀ (x : Reg) (s : State), 0xFFF < s.I.toNat + x.toNat →
    ∃ t, exec (.ldMemVx x) s = .next t ∧ t.fault = some .memOutOfRange ∧ ChangesOnly s t (fun e => e = .fault))

/-- `FX65` (`42_index_memory.md` section 3; decisions D4, D6, D22; log 13, 21): V0 to VX from I to I + X, higher registers, I and memory
unchanged; beyond memory, `MemOutOfRange` and no register loaded.
The frame clause is R16's, decision D23, log 21. -/
def Obligations.LoadRegistersReadsTheRunFromI : Prop :=
  (∀ (x : Reg) (s : State), s.I.toNat + x.toNat ≤ 0xFFF →
    ∃ t, exec (.ldVxMem x) s = .next t ∧ (∀ k : Reg, k.toNat ≤ x.toNat → t.readV k = s.peek (s.addr k.toNat)) ∧
      t.pc = s.pc + 2 ∧ ChangesOnly s t (fun e => e = .pc ∨ ∃ k : Reg, k.toNat ≤ x.toNat ∧ e = .reg k)) ∧
  (∀ (x : Reg) (s : State), 0xFFF < s.I.toNat + x.toNat →
    ∃ t, exec (.ldVxMem x) s = .next t ∧ t.fault = some .memOutOfRange ∧ ChangesOnly s t (fun e => e = .fault))

/-- The round trip of `FX55` and `FX65`: after a store, a load on any state with the same memory and the same I gives back V0 to VX,
whatever its registers held. `42_index_memory.md` sections 2 and 3 (decision D22, log 21). -/
def Obligations.LoadAfterStoreGivesTheRegistersBack : Prop :=
  ∀ (x : Reg) (s t u : State), s.I.toNat + x.toNat ≤ 0xFFF → exec (.ldMemVx x) s = .next t →
    u.I = s.I → (∀ a, u.peek a = t.peek a) →
    ∃ w, exec (.ldVxMem x) u = .next w ∧ ∀ k : Reg, k.toNat ≤ x.toNat → w.readV k = s.readV k

/-- A store is seen by the very next fetch: an `FX55` that writes the two bytes behind itself puts V0 and V1 there as the next
instruction word, and the next step runs it. `20_memory.md` section 7. -/
def Obligations.NextStepRunsTheWordJustStored : Prop :=
  ∀ (x : Reg) (s : State) (i : Instr), s.init = true → s.fault = none → 1 ≤ x.toNat → s.I = s.pc + 2 → s.pc.toNat ≤ 0xFFE →
    s.I.toNat + x.toNat ≤ 0xFFF → decodeWord (s.peek s.pc.toNat ++ s.peek (s.pc.toNat + 1)) = some (.ldMemVx x) →
    decodeWord (s.readV 0 ++ s.readV 1) = some i →
    ∃ t, step s = .next t ∧ step t = exec i { t with opcode := s.readV 0 ++ s.readV 1 }

/-! ## Display -/

/-- `00E0` (R115), with its encoding: every pixel 0; VF is not written; a second clear changes no pixel.
The frame clause is R16's, decision D23, log 21. -/
def Obligations.ClearScreenZeroesEveryPixel : Prop :=
  decodeWord 0x00E0 = some .cls ∧
  (∀ s t u : State, exec .cls s = .next t → exec .cls t = .next u → u.fb = t.fb) ∧
  ∀ s : State, ∃ t, exec .cls s = .next t ∧ (∀ p, t.pixel p = false) ∧ t.pc = s.pc + 2 ∧
    ChangesOnly s t (fun e => e = .pc ∨ ∃ p, e = .pixel p)

/-- `DXYN` (`43_display.md` section 2; decisions D17, D18, D19; log 6, 7, 20) in every mode: exactly the targets of the set sprite bits
are inverted, the coordinates being the registers' old values, and VF takes 1 when one of them was lit, else 0.
The frame clause is R16's, decision D23, log 21. -/
def Obligations.DrawInvertsExactlyTheTargetedPixels : Prop :=
  ∀ (x y : Reg) (n : Nibble) (s : State) (x0 y0 : Nat), x0 = (s.readV x).toNat → y0 = (s.readV y).toNat →
    (0 < n.toNat → s.I.toNat + n.toNat - 1 ≤ 0xFFF) →
    (0 < n.toNat → s.cfg.drawEdge = .fault → ¬BeyondGrid x0 y0 n.toNat) →
    ∃ t, exec (.drw x y n) s = .next t ∧
      (∀ p, t.pixel p ≠ s.pixel p ↔ Covered s x0 y0 n.toNat p) ∧
      ((∃ p, Covered s x0 y0 n.toNat p ∧ s.pixel p = true) → t.readV VF = 1) ∧
      ((∀ p, Covered s x0 y0 n.toNat p → s.pixel p = false) → t.readV VF = 0) ∧ t.pc = s.pc + 2 ∧
      ChangesOnly s t (fun e => e = .pc ∨ e = .reg VF ∨ ∃ p, Covered s x0 y0 n.toNat p ∧ e = .pixel p)

/-- The two faults of `DXYN` (`43_display.md` section 2; decisions D4, D6, D17, D33; log 7, 13, 27): the rectangle beyond the grid in
`fault` mode first, then the sprite beyond memory; nothing but `fault` changes.
The frame clause is R16's, decision D23, log 21. -/
def Obligations.DrawFaultsBeforeAnythingIsDrawn : Prop :=
  ∀ (x y : Reg) (n : Nibble) (s : State), 0 < n.toNat →
    (s.cfg.drawEdge = .fault ∧ BeyondGrid (s.readV x).toNat (s.readV y).toNat n.toNat →
      ∃ t, exec (.drw x y n) s = .next t ∧ t.fault = some .drawOutOfRange ∧ ChangesOnly s t (fun e => e = .fault)) ∧
    (¬(s.cfg.drawEdge = .fault ∧ BeyondGrid (s.readV x).toNat (s.readV y).toNat n.toNat) →
      0xFFF < s.I.toNat + n.toNat - 1 →
      ∃ t, exec (.drw x y n) s = .next t ∧ t.fault = some .memOutOfRange ∧ ChangesOnly s t (fun e => e = .fault))

/-- Drawing is self-inverse (`43_display.md` section 2, R122 [derived]) in every mode: a second draw at the same coordinates restores
every pixel, and its flag is 1 exactly when some targeted pixel was 0 before the first. -/
def Obligations.DrawingTwiceRestoresTheFramebuffer : Prop :=
  ∀ (x y : Reg) (n : Nibble) (s t : State), s.fault = none → exec (.drw x y n) s = .next t → t.fault = none →
    t.readV x = s.readV x → t.readV y = s.readV y →
    ∃ u, exec (.drw x y n) t = .next u ∧ u.fault = none ∧ u.fb = s.fb ∧
      (u.readV VF = 1 ↔ ∃ p, Covered s (s.readV x).toNat (s.readV y).toNat n.toNat p ∧ s.pixel p = false)

/-- A sprite that lies inside the grid is drawn the same in all three modes of `DRAW_EDGE` (`43_display.md` section 2, R120 [derived],
decision D17, log 7). -/
def Obligations.DrawModesAgreeInsideTheGrid : Prop :=
  ∀ (x y : Reg) (n : Nibble) (s t : State) (m : DrawEdge), ¬BeyondGrid (s.readV x).toNat (s.readV y).toNat n.toNat →
    exec (.drw x y n) s = .next t →
    exec (.drw x y n) { s with cfg := { s.cfg with drawEdge := m } } = .next { t with cfg := { t.cfg with drawEdge := m } }

/-! ## Keypad and timers -/

/-- `EX9E`, `EXA1` (`44_keypad_timers.md` section 1; decision D20, log 18): the key named by VX decides between pc + 4 and pc + 2; a value
above 15 records `KeyIndexOutOfRange`; nothing else changes.
The frame clause is R16's, decision D23, log 21. -/
def Obligations.KeySkipsTestTheKeyNamedByTheRegister : Prop :=
  (∀ (x : Reg) (s : State) (h : (s.readV x).toNat < 16), ∃ t, exec (.skp x) s = .next t ∧
    (s.key[(s.readV x).toNat] = true → t.pc = s.pc + 4) ∧ (s.key[(s.readV x).toNat] = false → t.pc = s.pc + 2) ∧
    ChangesOnly s t (fun e => e = .pc)) ∧
  (∀ (x : Reg) (s : State) (h : (s.readV x).toNat < 16), ∃ t, exec (.sknp x) s = .next t ∧
    (s.key[(s.readV x).toNat] = false → t.pc = s.pc + 4) ∧ (s.key[(s.readV x).toNat] = true → t.pc = s.pc + 2) ∧
    ChangesOnly s t (fun e => e = .pc)) ∧
  (∀ (x : Reg) (s : State) (i : Instr), i = .skp x ∨ i = .sknp x → 15 < (s.readV x).toNat →
    ∃ t, exec i s = .next t ∧ t.fault = some .keyIndexOutOfRange ∧ ChangesOnly s t (fun e => e = .fault))

/-- `FX0A` (`44_keypad_timers.md` section 2; decision D21, log 19): with keys pressed, VX takes the least index; with none, the step
completes and changes nothing.
The frame clause is R16's, decision D23, log 21. -/
def Obligations.WaitForKeyTakesTheLeastPressedKey : Prop :=
  (∀ (x : Reg) (s : State) (j : Fin 16), s.key[j.val] = true → (∀ k : Fin 16, k.val < j.val → s.key[k.val] = false) →
    ∃ t, exec (.ldVxK x) s = .next t ∧ (t.readV x).toNat = j.val ∧ t.pc = s.pc + 2 ∧
      ChangesOnly s t (fun e => e = .pc ∨ e = .reg x)) ∧
  (∀ (x : Reg) (s : State), (∀ k : Fin 16, s.key[k.val] = false) → exec (.ldVxK x) s = .next s)

/-- `FX07` (`44_keypad_timers.md` section 3), `FX15`, `FX18` (R127, R128), with their encodings: the delay timer is read, the timers are set; the sound output follows at once.
The frame clause is R16's, decision D23, log 21. -/
def Obligations.TimerMovesCopyOneByte : Prop :=
  WordsDecodeTo 0xF0FF 0xF007 (fun op => .ldVxDt (fieldX op)) ∧
  WordsDecodeTo 0xF0FF 0xF015 (fun op => .ldDtVx (fieldX op)) ∧
  WordsDecodeTo 0xF0FF 0xF018 (fun op => .ldStVx (fieldX op)) ∧
  (∀ (x : Reg) (s : State), ∃ t, exec (.ldVxDt x) s = .next t ∧ t.readV x = s.DT ∧ t.pc = s.pc + 2 ∧
    ChangesOnly s t (fun e => e = .pc ∨ e = .reg x)) ∧
  (∀ (x : Reg) (s : State), ∃ t, exec (.ldDtVx x) s = .next t ∧ t.DT = s.readV x ∧ t.pc = s.pc + 2 ∧
    ChangesOnly s t (fun e => e = .pc ∨ e = .DT)) ∧
  (∀ (x : Reg) (s : State), ∃ t, exec (.ldStVx x) s = .next t ∧ t.ST = s.readV x ∧
    (t.soundActive = true ↔ s.readV x ≠ 0) ∧ t.pc = s.pc + 2 ∧ ChangesOnly s t (fun e => e = .pc ∨ e = .ST))

/-! ## Host operations -/

/-- `tick()` (R143): each timer steps down by one, independently, and stays at 0; nothing else changes; before reset it is refused. -/
def Obligations.TickCountsBothTimersDown : Prop :=
  (∀ s : State, s.init = true → ∃ t, HostOp.tick.run s = .next t ∧ t.DT.toNat = s.DT.toNat - 1 ∧ t.ST.toNat = s.ST.toNat - 1 ∧
    ChangesOnly s t (fun e => e = .DT ∨ e = .ST)) ∧
  (∀ s : State, s.init = false → HostOp.tick.run s = .refused .notReset)

/-- A timer loaded with n reaches 0 after exactly n ticks, and the sound is on for the ticks in between (`60_exceptions.md` section 8,
R144 [derived]), also in a halted core (decision D25, log 22). -/
def Obligations.TimersReachZeroAfterTheirCountOfTicks : Prop :=
  ∀ (n : Nat) (s t : State), s.init = true → t = runSchedule (List.replicate n .tick) s →
    t.DT.toNat = s.DT.toNat - n ∧ t.ST.toNat = s.ST.toNat - n ∧ (t.soundActive = true ↔ n < s.ST.toNat)

/-- `set_keys(k)` (`60_exceptions.md` section 9, decision D31, log 22): all sixteen flags are replaced and nothing else changes. -/
def Obligations.SetKeysReplacesAllFlags : Prop :=
  ∀ (k : Vector Bool 16) (s : State), s.init = true → ∃ t, (HostOp.setKeys k).run s = .next t ∧
    (∀ j : Fin 16, t.key[j.val] = k[j.val]) ∧ ChangesOnly s t (fun e => ∃ j, e = .key j)

/-- `load(bytes)` (R158, R159): the bytes go to `0x200` up and nothing else changes; before reset it is refused; above 3584 bytes it is
`RomTooLarge`, with the state as it was. -/
def Obligations.LoadCopiesTheProgramOrRejectsIt : Prop :=
  (∀ (bytes : List Byte) (s : State), s.init = true → bytes.length ≤ 4096 - 0x200 →
    ∃ t, (HostOp.load bytes).run s = .next t ∧ (∀ k (h : k < bytes.length), t.peek (0x200 + k) = bytes[k]) ∧
      ChangesOnly s t (fun e => ∃ k < bytes.length, e = .byte (0x200 + k))) ∧
  (∀ (bytes : List Byte) (s : State), s.init = true → 4096 - 0x200 < bytes.length →
    (HostOp.load bytes).run s = .refused .romTooLarge ∧ runSchedule [.load bytes] s = s) ∧
  (∀ (bytes : List Byte) (s : State), s.init = false → (HostOp.load bytes).run s = .refused .notReset)

/-- Before the first reset every operation but `reset()` is refused with `NotReset`, and no schedule without a reset changes anything.
`70_reset_and_hazards.md` section 1 (decision D2, log 4, 24). -/
def Obligations.NothingHappensBeforeTheFirstReset : Prop :=
  ∀ s : State, s.init = false →
    (∀ o : HostOp, o ≠ .reset → o.run s = .refused .notReset) ∧
    (∀ os : List HostOp, .reset ∉ os → runSchedule os s = s)

/-- A halted core leaves that state by `reset()` only: whatever else the host does, the fault, the registers, pc, I, the stack and the
framebuffer stay. `60_exceptions.md` sections 3 and 4 (decisions D3, D25; log 3, 22). -/
def Obligations.OnlyResetLeavesTheHaltedState : Prop :=
  ∀ (os : List HostOp) (s : State), s.fault ≠ none → .reset ∉ os →
    ChangesOnly s (runSchedule os s) (fun e => e = .DT ∨ e = .ST ∨ (∃ j, e = .key j) ∨ ∃ a, e = .byte a)

/-- A jump to itself ends a run (`70_reset_and_hazards.md` section 8, R173, decision D29, log 29): the step changes `opcode` at most,
the core is still finished, and from then on the state is a fixed point of the step. -/
def Obligations.FinishedStateIsAFixedPointOfStep : Prop :=
  ∀ s : State, s.finished = true →
    ∃ t, step s = .next t ∧ ChangesOnly s t (fun e => e = .opcode) ∧ t.finished = true ∧ step t = .next t
end

