-- ==== Sys2Proof/Laws/Framebuffer.lean ====
section
/-! SUPPORT. The laws of the framebuffer: reading a pixel after writing one, and the cleared grid. -/

namespace Sys2Proof.Machine

@[simp] theorem Framebuffer.get_clear (p : Pixel) : Framebuffer.clear.get p = false := by
  simp [Framebuffer.get, Framebuffer.clear]

/-- A pixel read after a pixel written: the written one gives the bit, every other one what it gave before. -/
theorem Framebuffer.get_put (fb : Framebuffer) (p q : Pixel) (b : Bool) :
    (fb.put p b).get q = if q = p then b else fb.get q := by
  obtain ⟨px, py⟩ := p
  obtain ⟨qx, qy⟩ := q
  simp only [Framebuffer.get, Framebuffer.put, Vector.getElem_set, Prod.mk.injEq, Fin.ext_iff]
  by_cases hx : px.val = qx.val
  · by_cases hy : py.val = qy.val
    · simp [hx, hy]
    · simp [hx, hy, Ne.symm hy]
  · simp [hx, Ne.symm hx]

/-- Two framebuffers with the same pixels are the same. -/
theorem Framebuffer.ext_of_get {f g : Framebuffer} (h : ∀ p, f.get p = g.get p) : f = g := by
  refine Vector.ext fun x hx => Vector.ext fun y hy => ?_
  exact h (⟨x, hx⟩, ⟨y, hy⟩)

end Sys2Proof.Machine
end

