-- ==== Sys2Proof/Laws/Memory.lean ====
section
/-!
SUPPORT. The laws of memory: reading after writing, writing keeps the canonical form, and equal contents are equal lists.
-/

namespace Sys2Proof.Machine

variable {font : Font}

theorem Memory.unlisted_of_ge {a : Nat} (h : 80 ≤ a) : Memory.unlisted font a = 0 := by
  simp [Memory.unlisted, Nat.not_lt.2 h]

theorem Memory.unlisted_of_lt {a : Nat} (h : a < 80) : Memory.unlisted font a = font[a] := by
  simp [Memory.unlisted, h]

@[simp] theorem Memory.read_nil (a : Nat) : Memory.read font [] a = Memory.unlisted font a := rfl

@[simp] theorem Memory.read_cons (c : Host.Cell) (m : Memory) (a : Nat) :
    Memory.read font (c :: m) a = if a = c.1 then c.2 else Memory.read font m a := rfl

/-- An address no cell lists reads as the reset contents. -/
theorem Memory.read_unlisted {m : Memory} {a : Nat} (h : ∀ c ∈ m, c.1 ≠ a) :
    Memory.read font m a = Memory.unlisted font a := by
  induction m with
  | nil => rfl
  | cons c m ih =>
    simp only [List.mem_cons, forall_eq_or_imp] at h
    rw [Memory.read_cons, if_neg (Ne.symm h.1), ih h.2]

theorem Memory.read_filter (m : Memory) (a a' : Nat) :
    Memory.read font (m.filter (fun c => c.1 != a)) a' =
      if a' = a then Memory.unlisted font a' else Memory.read font m a' := by
  induction m with
  | nil => simp
  | cons c m ih =>
    by_cases hc : c.1 = a
    · simp only [List.filter_cons, hc, bne_self_eq_false, Bool.false_eq_true, if_false, ih, Memory.read_cons]
      split <;> rfl
    · simp only [List.filter_cons, bne_iff_ne, ne_eq, hc, not_false_eq_true, if_true, Memory.read_cons, ih]
      by_cases h1 : a' = c.1
      · subst h1; simp [hc]
      · simp [h1]

theorem Memory.read_insertCell {m : Memory} {a : Nat} (b : Byte) (h : ∀ c ∈ m, c.1 ≠ a) (a' : Nat) :
    Memory.read font (Memory.insertCell a b m) a' = if a' = a then b else Memory.read font m a' := by
  induction m with
  | nil => simp [Memory.insertCell]
  | cons c m ih =>
    simp only [List.mem_cons, forall_eq_or_imp] at h
    unfold Memory.insertCell
    split
    · rfl
    · rw [Memory.read_cons, ih h.2, Memory.read_cons]
      by_cases h1 : a' = c.1
      · subst h1; simp [h.1]
      · simp [h1]

theorem Memory.filter_absent (m : Memory) (a : Nat) : ∀ c ∈ m.filter (fun c => c.1 != a), c.1 ≠ a := by
  intro c hc
  simpa using (List.mem_filter.1 hc).2

/-- A read after a write: the written address gives the byte written, every other address what it gave before. -/
theorem Memory.read_write (m : Memory) (a : Nat) (b : Byte) (a' : Nat) :
    Memory.read font (Memory.write font m a b) a' = if a' = a then b else Memory.read font m a' := by
  unfold Memory.write
  by_cases hb : b = Memory.unlisted font a
  · simp only [hb, if_true, Memory.read_filter]
    by_cases h : a' = a
    · subst h; simp
    · simp [h]
  · simp only [hb, if_false]
    rw [Memory.read_insertCell b (Memory.filter_absent m a), Memory.read_filter]
    by_cases h : a' = a <;> simp [h]

theorem Memory.mem_insertCell {m : Memory} {a : Nat} {b : Byte} {c : Host.Cell} :
    c ∈ Memory.insertCell a b m ↔ c = (a, b) ∨ c ∈ m := by
  induction m with
  | nil => simp [Memory.insertCell]
  | cons d m ih =>
    unfold Memory.insertCell
    split
    · simp
    · simp only [List.mem_cons, ih]; tauto

theorem Memory.insertCell_pairwise {m : Memory} {a : Nat} (b : Byte) (hm : m.Pairwise (fun c d => c.1 < d.1))
    (h : ∀ c ∈ m, c.1 ≠ a) : (Memory.insertCell a b m).Pairwise (fun c d => c.1 < d.1) := by
  induction m with
  | nil => simp [Memory.insertCell]
  | cons c m ih =>
    simp only [List.mem_cons, forall_eq_or_imp] at h
    rw [List.pairwise_cons] at hm
    unfold Memory.insertCell
    split
    case isTrue hlt =>
      refine List.pairwise_cons.2 ⟨?_, List.pairwise_cons.2 hm⟩
      intro d hd
      rcases List.mem_cons.1 hd with rfl | hd
      · exact hlt
      · exact Nat.lt_trans hlt (hm.1 d hd)
    case isFalse hge =>
      refine List.pairwise_cons.2 ⟨?_, ih hm.2 h.2⟩
      intro d hd
      rcases Memory.mem_insertCell.1 hd with rfl | hd
      · have := h.1; simp only at hge ⊢; omega
      · exact hm.1 d hd

theorem Memory.wf_nil : Memory.wf font [] := by simp [Memory.wf]

/-- A write inside memory keeps the canonical form. -/
theorem Memory.write_wf {m : Memory} (hm : Memory.wf font m) {a : Nat} (ha : a < memSize) (b : Byte) :
    Memory.wf font (Memory.write font m a b) := by
  have hp : (m.filter (fun c => c.1 != a)).Pairwise (fun c d => c.1 < d.1) := hm.1.filter _
  have hc : ∀ c ∈ m.filter (fun c => c.1 != a), c.1 < memSize ∧ c.2 ≠ Memory.unlisted font c.1 :=
    fun c h => hm.2 c (List.mem_filter.1 h).1
  unfold Memory.write
  split
  · exact ⟨hp, hc⟩
  · refine ⟨Memory.insertCell_pairwise b hp (Memory.filter_absent m a), ?_⟩
    intro c h
    rcases Memory.mem_insertCell.1 h with rfl | h
    · exact ⟨ha, by assumption⟩
    · exact hc c h

/-- In canonical form a listed address reads as its cell. -/
theorem Memory.read_listed {m : Memory} (hm : m.Pairwise (fun c d => c.1 < d.1)) {c : Host.Cell} (hc : c ∈ m) :
    Memory.read font m c.1 = c.2 := by
  induction m with
  | nil => cases hc
  | cons d m ih =>
    rw [List.pairwise_cons] at hm
    rcases List.mem_cons.1 hc with rfl | h
    · simp
    · have := hm.1 c h
      rw [Memory.read_cons, if_neg (by omega), ih hm.2 h]

/-- In canonical form the cells are exactly the addresses that do not read as the reset contents. -/
theorem Memory.mem_iff {m : Memory} (hm : Memory.wf font m) (c : Host.Cell) :
    c ∈ m ↔ Memory.read font m c.1 = c.2 ∧ c.2 ≠ Memory.unlisted font c.1 := by
  constructor
  · intro h
    exact ⟨Memory.read_listed hm.1 h, (hm.2 c h).2⟩
  · rintro ⟨h1, h2⟩
    by_contra hc
    by_cases hex : ∃ d ∈ m, d.1 = c.1
    · obtain ⟨d, hd, hdc⟩ := hex
      have : d = c := Prod.ext hdc (by rw [← Memory.read_listed (font := font) hm.1 hd, hdc, h1])
      exact hc (this ▸ hd)
    · rw [Memory.read_unlisted (by intro d hd h; exact hex ⟨d, hd, h⟩)] at h1
      exact h2 h1.symm

/-- Two memories in canonical form with the same contents are the same list. -/
theorem Memory.ext_of_read {m m' : Memory} (hm : Memory.wf font m) (hm' : Memory.wf font m')
    (h : ∀ a, Memory.read font m a = Memory.read font m' a) : m = m' := by
  have hs : ∀ {l : Memory}, Memory.wf font l → l.Nodup := by
    intro l hl
    exact hl.1.imp (fun h e => by rw [e] at h; exact Nat.lt_irrefl _ h)
  have hp : m.Perm m' := by
    refine (List.perm_ext_iff_of_nodup (hs hm) (hs hm')).2 ?_
    intro c
    rw [Memory.mem_iff hm, Memory.mem_iff hm', h]
  refine hp.eq_of_pairwise (le := fun c d : Host.Cell => c.1 < d.1) ?_ hm.1 hm'.1
  intro c d _ _ h1 h2
  omega

end Sys2Proof.Machine
end

