-- ==== Sys2Proof/Laws/State.lean ====
section
/-!
SUPPORT. One lemma per field per update of the state, each true by `rfl` and a simp lemma, so that no later proof unfolds a record
update; then the same for the loops, and for the reads of a register and of a byte.
-/

namespace Sys2Proof.Machine

/-! ## `writeV` -/

@[simp] theorem State.writeV_I (s : State) (r : Reg) (b : Byte) : (s.writeV r b).I = s.I := rfl
@[simp] theorem State.writeV_pc (s : State) (r : Reg) (b : Byte) : (s.writeV r b).pc = s.pc := rfl
@[simp] theorem State.writeV_sp (s : State) (r : Reg) (b : Byte) : (s.writeV r b).sp = s.sp := rfl
@[simp] theorem State.writeV_stack (s : State) (r : Reg) (b : Byte) : (s.writeV r b).stack = s.stack := rfl
@[simp] theorem State.writeV_DT (s : State) (r : Reg) (b : Byte) : (s.writeV r b).DT = s.DT := rfl
@[simp] theorem State.writeV_ST (s : State) (r : Reg) (b : Byte) : (s.writeV r b).ST = s.ST := rfl
@[simp] theorem State.writeV_key (s : State) (r : Reg) (b : Byte) : (s.writeV r b).key = s.key := rfl
@[simp] theorem State.writeV_fb (s : State) (r : Reg) (b : Byte) : (s.writeV r b).fb = s.fb := rfl
@[simp] theorem State.writeV_mem (s : State) (r : Reg) (b : Byte) : (s.writeV r b).mem = s.mem := rfl
@[simp] theorem State.writeV_opcode (s : State) (r : Reg) (b : Byte) : (s.writeV r b).opcode = s.opcode := rfl
@[simp] theorem State.writeV_init (s : State) (r : Reg) (b : Byte) : (s.writeV r b).init = s.init := rfl
@[simp] theorem State.writeV_fault (s : State) (r : Reg) (b : Byte) : (s.writeV r b).fault = s.fault := rfl
@[simp] theorem State.writeV_unkCount (s : State) (r : Reg) (b : Byte) : (s.writeV r b).unkCount = s.unkCount := rfl
@[simp] theorem State.writeV_cfg (s : State) (r : Reg) (b : Byte) : (s.writeV r b).cfg = s.cfg := rfl
@[simp] theorem State.writeV_draws (s : State) (r : Reg) (b : Byte) : (s.writeV r b).draws = s.draws := rfl
@[simp] theorem State.writeV_peek (s : State) (r : Reg) (b : Byte) (a' : Nat) : (s.writeV r b).peek a' = s.peek a' := rfl

/-! ## `setFlag` -/

@[simp] theorem State.setFlag_I (s : State) (c : Byte) : (s.setFlag c).I = s.I := rfl
@[simp] theorem State.setFlag_pc (s : State) (c : Byte) : (s.setFlag c).pc = s.pc := rfl
@[simp] theorem State.setFlag_sp (s : State) (c : Byte) : (s.setFlag c).sp = s.sp := rfl
@[simp] theorem State.setFlag_stack (s : State) (c : Byte) : (s.setFlag c).stack = s.stack := rfl
@[simp] theorem State.setFlag_DT (s : State) (c : Byte) : (s.setFlag c).DT = s.DT := rfl
@[simp] theorem State.setFlag_ST (s : State) (c : Byte) : (s.setFlag c).ST = s.ST := rfl
@[simp] theorem State.setFlag_key (s : State) (c : Byte) : (s.setFlag c).key = s.key := rfl
@[simp] theorem State.setFlag_fb (s : State) (c : Byte) : (s.setFlag c).fb = s.fb := rfl
@[simp] theorem State.setFlag_mem (s : State) (c : Byte) : (s.setFlag c).mem = s.mem := rfl
@[simp] theorem State.setFlag_opcode (s : State) (c : Byte) : (s.setFlag c).opcode = s.opcode := rfl
@[simp] theorem State.setFlag_init (s : State) (c : Byte) : (s.setFlag c).init = s.init := rfl
@[simp] theorem State.setFlag_fault (s : State) (c : Byte) : (s.setFlag c).fault = s.fault := rfl
@[simp] theorem State.setFlag_unkCount (s : State) (c : Byte) : (s.setFlag c).unkCount = s.unkCount := rfl
@[simp] theorem State.setFlag_cfg (s : State) (c : Byte) : (s.setFlag c).cfg = s.cfg := rfl
@[simp] theorem State.setFlag_draws (s : State) (c : Byte) : (s.setFlag c).draws = s.draws := rfl
@[simp] theorem State.setFlag_peek (s : State) (c : Byte) (a' : Nat) : (s.setFlag c).peek a' = s.peek a' := rfl

/-! ## `setI` -/

@[simp] theorem State.setI_V (s : State) (w : Word) : (s.setI w).V = s.V := rfl
@[simp] theorem State.setI_I (s : State) (w : Word) : (s.setI w).I = w := rfl
@[simp] theorem State.setI_pc (s : State) (w : Word) : (s.setI w).pc = s.pc := rfl
@[simp] theorem State.setI_sp (s : State) (w : Word) : (s.setI w).sp = s.sp := rfl
@[simp] theorem State.setI_stack (s : State) (w : Word) : (s.setI w).stack = s.stack := rfl
@[simp] theorem State.setI_DT (s : State) (w : Word) : (s.setI w).DT = s.DT := rfl
@[simp] theorem State.setI_ST (s : State) (w : Word) : (s.setI w).ST = s.ST := rfl
@[simp] theorem State.setI_key (s : State) (w : Word) : (s.setI w).key = s.key := rfl
@[simp] theorem State.setI_fb (s : State) (w : Word) : (s.setI w).fb = s.fb := rfl
@[simp] theorem State.setI_mem (s : State) (w : Word) : (s.setI w).mem = s.mem := rfl
@[simp] theorem State.setI_opcode (s : State) (w : Word) : (s.setI w).opcode = s.opcode := rfl
@[simp] theorem State.setI_init (s : State) (w : Word) : (s.setI w).init = s.init := rfl
@[simp] theorem State.setI_fault (s : State) (w : Word) : (s.setI w).fault = s.fault := rfl
@[simp] theorem State.setI_unkCount (s : State) (w : Word) : (s.setI w).unkCount = s.unkCount := rfl
@[simp] theorem State.setI_cfg (s : State) (w : Word) : (s.setI w).cfg = s.cfg := rfl
@[simp] theorem State.setI_draws (s : State) (w : Word) : (s.setI w).draws = s.draws := rfl
@[simp] theorem State.setI_readV (s : State) (w : Word) (r' : Reg) : (s.setI w).readV r' = s.readV r' := rfl
@[simp] theorem State.setI_peek (s : State) (w : Word) (a' : Nat) : (s.setI w).peek a' = s.peek a' := rfl

/-! ## `setPc` -/

@[simp] theorem State.setPc_V (s : State) (w : Word) : (s.setPc w).V = s.V := rfl
@[simp] theorem State.setPc_I (s : State) (w : Word) : (s.setPc w).I = s.I := rfl
@[simp] theorem State.setPc_pc (s : State) (w : Word) : (s.setPc w).pc = w := rfl
@[simp] theorem State.setPc_sp (s : State) (w : Word) : (s.setPc w).sp = s.sp := rfl
@[simp] theorem State.setPc_stack (s : State) (w : Word) : (s.setPc w).stack = s.stack := rfl
@[simp] theorem State.setPc_DT (s : State) (w : Word) : (s.setPc w).DT = s.DT := rfl
@[simp] theorem State.setPc_ST (s : State) (w : Word) : (s.setPc w).ST = s.ST := rfl
@[simp] theorem State.setPc_key (s : State) (w : Word) : (s.setPc w).key = s.key := rfl
@[simp] theorem State.setPc_fb (s : State) (w : Word) : (s.setPc w).fb = s.fb := rfl
@[simp] theorem State.setPc_mem (s : State) (w : Word) : (s.setPc w).mem = s.mem := rfl
@[simp] theorem State.setPc_opcode (s : State) (w : Word) : (s.setPc w).opcode = s.opcode := rfl
@[simp] theorem State.setPc_init (s : State) (w : Word) : (s.setPc w).init = s.init := rfl
@[simp] theorem State.setPc_fault (s : State) (w : Word) : (s.setPc w).fault = s.fault := rfl
@[simp] theorem State.setPc_unkCount (s : State) (w : Word) : (s.setPc w).unkCount = s.unkCount := rfl
@[simp] theorem State.setPc_cfg (s : State) (w : Word) : (s.setPc w).cfg = s.cfg := rfl
@[simp] theorem State.setPc_draws (s : State) (w : Word) : (s.setPc w).draws = s.draws := rfl
@[simp] theorem State.setPc_readV (s : State) (w : Word) (r' : Reg) : (s.setPc w).readV r' = s.readV r' := rfl
@[simp] theorem State.setPc_peek (s : State) (w : Word) (a' : Nat) : (s.setPc w).peek a' = s.peek a' := rfl

/-! ## `advance` -/

@[simp] theorem State.advance_V (s : State) : (s.advance).V = s.V := rfl
@[simp] theorem State.advance_I (s : State) : (s.advance).I = s.I := rfl
@[simp] theorem State.advance_pc (s : State) : (s.advance).pc = s.pc + 2 := rfl
@[simp] theorem State.advance_sp (s : State) : (s.advance).sp = s.sp := rfl
@[simp] theorem State.advance_stack (s : State) : (s.advance).stack = s.stack := rfl
@[simp] theorem State.advance_DT (s : State) : (s.advance).DT = s.DT := rfl
@[simp] theorem State.advance_ST (s : State) : (s.advance).ST = s.ST := rfl
@[simp] theorem State.advance_key (s : State) : (s.advance).key = s.key := rfl
@[simp] theorem State.advance_fb (s : State) : (s.advance).fb = s.fb := rfl
@[simp] theorem State.advance_mem (s : State) : (s.advance).mem = s.mem := rfl
@[simp] theorem State.advance_opcode (s : State) : (s.advance).opcode = s.opcode := rfl
@[simp] theorem State.advance_init (s : State) : (s.advance).init = s.init := rfl
@[simp] theorem State.advance_fault (s : State) : (s.advance).fault = s.fault := rfl
@[simp] theorem State.advance_unkCount (s : State) : (s.advance).unkCount = s.unkCount := rfl
@[simp] theorem State.advance_cfg (s : State) : (s.advance).cfg = s.cfg := rfl
@[simp] theorem State.advance_draws (s : State) : (s.advance).draws = s.draws := rfl
@[simp] theorem State.advance_readV (s : State) (r' : Reg) : (s.advance).readV r' = s.readV r' := rfl
@[simp] theorem State.advance_peek (s : State) (a' : Nat) : (s.advance).peek a' = s.peek a' := rfl

/-! ## `poke` -/

@[simp] theorem State.poke_V (s : State) (a : Nat) (b : Byte) : (s.poke a b).V = s.V := rfl
@[simp] theorem State.poke_I (s : State) (a : Nat) (b : Byte) : (s.poke a b).I = s.I := rfl
@[simp] theorem State.poke_pc (s : State) (a : Nat) (b : Byte) : (s.poke a b).pc = s.pc := rfl
@[simp] theorem State.poke_sp (s : State) (a : Nat) (b : Byte) : (s.poke a b).sp = s.sp := rfl
@[simp] theorem State.poke_stack (s : State) (a : Nat) (b : Byte) : (s.poke a b).stack = s.stack := rfl
@[simp] theorem State.poke_DT (s : State) (a : Nat) (b : Byte) : (s.poke a b).DT = s.DT := rfl
@[simp] theorem State.poke_ST (s : State) (a : Nat) (b : Byte) : (s.poke a b).ST = s.ST := rfl
@[simp] theorem State.poke_key (s : State) (a : Nat) (b : Byte) : (s.poke a b).key = s.key := rfl
@[simp] theorem State.poke_fb (s : State) (a : Nat) (b : Byte) : (s.poke a b).fb = s.fb := rfl
@[simp] theorem State.poke_mem (s : State) (a : Nat) (b : Byte) : (s.poke a b).mem = s.mem.write s.cfg.font a b := rfl
@[simp] theorem State.poke_opcode (s : State) (a : Nat) (b : Byte) : (s.poke a b).opcode = s.opcode := rfl
@[simp] theorem State.poke_init (s : State) (a : Nat) (b : Byte) : (s.poke a b).init = s.init := rfl
@[simp] theorem State.poke_fault (s : State) (a : Nat) (b : Byte) : (s.poke a b).fault = s.fault := rfl
@[simp] theorem State.poke_unkCount (s : State) (a : Nat) (b : Byte) : (s.poke a b).unkCount = s.unkCount := rfl
@[simp] theorem State.poke_cfg (s : State) (a : Nat) (b : Byte) : (s.poke a b).cfg = s.cfg := rfl
@[simp] theorem State.poke_draws (s : State) (a : Nat) (b : Byte) : (s.poke a b).draws = s.draws := rfl
@[simp] theorem State.poke_readV (s : State) (a : Nat) (b : Byte) (r' : Reg) : (s.poke a b).readV r' = s.readV r' := rfl

/-! ## `storeDigits` -/

@[simp] theorem State.storeDigits_V (s : State) (v : Byte) : (s.storeDigits v).V = s.V := rfl
@[simp] theorem State.storeDigits_I (s : State) (v : Byte) : (s.storeDigits v).I = s.I := rfl
@[simp] theorem State.storeDigits_pc (s : State) (v : Byte) : (s.storeDigits v).pc = s.pc := rfl
@[simp] theorem State.storeDigits_sp (s : State) (v : Byte) : (s.storeDigits v).sp = s.sp := rfl
@[simp] theorem State.storeDigits_stack (s : State) (v : Byte) : (s.storeDigits v).stack = s.stack := rfl
@[simp] theorem State.storeDigits_DT (s : State) (v : Byte) : (s.storeDigits v).DT = s.DT := rfl
@[simp] theorem State.storeDigits_ST (s : State) (v : Byte) : (s.storeDigits v).ST = s.ST := rfl
@[simp] theorem State.storeDigits_key (s : State) (v : Byte) : (s.storeDigits v).key = s.key := rfl
@[simp] theorem State.storeDigits_fb (s : State) (v : Byte) : (s.storeDigits v).fb = s.fb := rfl
@[simp] theorem State.storeDigits_opcode (s : State) (v : Byte) : (s.storeDigits v).opcode = s.opcode := rfl
@[simp] theorem State.storeDigits_init (s : State) (v : Byte) : (s.storeDigits v).init = s.init := rfl
@[simp] theorem State.storeDigits_fault (s : State) (v : Byte) : (s.storeDigits v).fault = s.fault := rfl
@[simp] theorem State.storeDigits_unkCount (s : State) (v : Byte) : (s.storeDigits v).unkCount = s.unkCount := rfl
@[simp] theorem State.storeDigits_cfg (s : State) (v : Byte) : (s.storeDigits v).cfg = s.cfg := rfl
@[simp] theorem State.storeDigits_draws (s : State) (v : Byte) : (s.storeDigits v).draws = s.draws := rfl
@[simp] theorem State.storeDigits_readV (s : State) (v : Byte) (r' : Reg) : (s.storeDigits v).readV r' = s.readV r' := rfl

/-! ## `raised` -/

@[simp] theorem State.raised_V (s : State) (k : FaultKind) : (s.raised k).V = s.V := rfl
@[simp] theorem State.raised_I (s : State) (k : FaultKind) : (s.raised k).I = s.I := rfl
@[simp] theorem State.raised_pc (s : State) (k : FaultKind) : (s.raised k).pc = s.pc := rfl
@[simp] theorem State.raised_sp (s : State) (k : FaultKind) : (s.raised k).sp = s.sp := rfl
@[simp] theorem State.raised_stack (s : State) (k : FaultKind) : (s.raised k).stack = s.stack := rfl
@[simp] theorem State.raised_DT (s : State) (k : FaultKind) : (s.raised k).DT = s.DT := rfl
@[simp] theorem State.raised_ST (s : State) (k : FaultKind) : (s.raised k).ST = s.ST := rfl
@[simp] theorem State.raised_key (s : State) (k : FaultKind) : (s.raised k).key = s.key := rfl
@[simp] theorem State.raised_fb (s : State) (k : FaultKind) : (s.raised k).fb = s.fb := rfl
@[simp] theorem State.raised_mem (s : State) (k : FaultKind) : (s.raised k).mem = s.mem := rfl
@[simp] theorem State.raised_opcode (s : State) (k : FaultKind) : (s.raised k).opcode = s.opcode := rfl
@[simp] theorem State.raised_init (s : State) (k : FaultKind) : (s.raised k).init = s.init := rfl
@[simp] theorem State.raised_fault (s : State) (k : FaultKind) : (s.raised k).fault = some k := rfl
@[simp] theorem State.raised_unkCount (s : State) (k : FaultKind) : (s.raised k).unkCount = s.unkCount := rfl
@[simp] theorem State.raised_cfg (s : State) (k : FaultKind) : (s.raised k).cfg = s.cfg := rfl
@[simp] theorem State.raised_draws (s : State) (k : FaultKind) : (s.raised k).draws = s.draws := rfl
@[simp] theorem State.raised_readV (s : State) (k : FaultKind) (r' : Reg) : (s.raised k).readV r' = s.readV r' := rfl
@[simp] theorem State.raised_peek (s : State) (k : FaultKind) (a' : Nat) : (s.raised k).peek a' = s.peek a' := rfl

/-! ## `push` -/

@[simp] theorem State.push_V (s : State) (h : s.sp.val < 16) : (s.push h).V = s.V := rfl
@[simp] theorem State.push_I (s : State) (h : s.sp.val < 16) : (s.push h).I = s.I := rfl
@[simp] theorem State.push_pc (s : State) (h : s.sp.val < 16) : (s.push h).pc = s.pc := rfl
@[simp] theorem State.push_stack (s : State) (h : s.sp.val < 16) : (s.push h).stack = s.stack.set s.sp.val s.pc h := rfl
@[simp] theorem State.push_DT (s : State) (h : s.sp.val < 16) : (s.push h).DT = s.DT := rfl
@[simp] theorem State.push_ST (s : State) (h : s.sp.val < 16) : (s.push h).ST = s.ST := rfl
@[simp] theorem State.push_key (s : State) (h : s.sp.val < 16) : (s.push h).key = s.key := rfl
@[simp] theorem State.push_fb (s : State) (h : s.sp.val < 16) : (s.push h).fb = s.fb := rfl
@[simp] theorem State.push_mem (s : State) (h : s.sp.val < 16) : (s.push h).mem = s.mem := rfl
@[simp] theorem State.push_opcode (s : State) (h : s.sp.val < 16) : (s.push h).opcode = s.opcode := rfl
@[simp] theorem State.push_init (s : State) (h : s.sp.val < 16) : (s.push h).init = s.init := rfl
@[simp] theorem State.push_fault (s : State) (h : s.sp.val < 16) : (s.push h).fault = s.fault := rfl
@[simp] theorem State.push_unkCount (s : State) (h : s.sp.val < 16) : (s.push h).unkCount = s.unkCount := rfl
@[simp] theorem State.push_cfg (s : State) (h : s.sp.val < 16) : (s.push h).cfg = s.cfg := rfl
@[simp] theorem State.push_draws (s : State) (h : s.sp.val < 16) : (s.push h).draws = s.draws := rfl
@[simp] theorem State.push_readV (s : State) (h : s.sp.val < 16) (r' : Reg) : (s.push h).readV r' = s.readV r' := rfl
@[simp] theorem State.push_peek (s : State) (h : s.sp.val < 16) (a' : Nat) : (s.push h).peek a' = s.peek a' := rfl
@[simp] theorem State.push_sp_val (s : State) (h : s.sp.val < 16) : (s.push h).sp.val = s.sp.val + 1 := rfl

/-! ## `pop` -/

@[simp] theorem State.pop_V (s : State) : (s.pop).V = s.V := rfl
@[simp] theorem State.pop_I (s : State) : (s.pop).I = s.I := rfl
@[simp] theorem State.pop_pc (s : State) : (s.pop).pc = s.pc := rfl
@[simp] theorem State.pop_stack (s : State) : (s.pop).stack = s.stack := rfl
@[simp] theorem State.pop_DT (s : State) : (s.pop).DT = s.DT := rfl
@[simp] theorem State.pop_ST (s : State) : (s.pop).ST = s.ST := rfl
@[simp] theorem State.pop_key (s : State) : (s.pop).key = s.key := rfl
@[simp] theorem State.pop_fb (s : State) : (s.pop).fb = s.fb := rfl
@[simp] theorem State.pop_mem (s : State) : (s.pop).mem = s.mem := rfl
@[simp] theorem State.pop_opcode (s : State) : (s.pop).opcode = s.opcode := rfl
@[simp] theorem State.pop_init (s : State) : (s.pop).init = s.init := rfl
@[simp] theorem State.pop_fault (s : State) : (s.pop).fault = s.fault := rfl
@[simp] theorem State.pop_unkCount (s : State) : (s.pop).unkCount = s.unkCount := rfl
@[simp] theorem State.pop_cfg (s : State) : (s.pop).cfg = s.cfg := rfl
@[simp] theorem State.pop_draws (s : State) : (s.pop).draws = s.draws := rfl
@[simp] theorem State.pop_readV (s : State) (r' : Reg) : (s.pop).readV r' = s.readV r' := rfl
@[simp] theorem State.pop_peek (s : State) (a' : Nat) : (s.pop).peek a' = s.peek a' := rfl
@[simp] theorem State.pop_sp_val (s : State) : s.pop.sp.val = s.sp.val - 1 := rfl

/-! ## `consume` -/

@[simp] theorem State.consume_V (s : State) : (s.consume).V = s.V := rfl
@[simp] theorem State.consume_I (s : State) : (s.consume).I = s.I := rfl
@[simp] theorem State.consume_pc (s : State) : (s.consume).pc = s.pc := rfl
@[simp] theorem State.consume_sp (s : State) : (s.consume).sp = s.sp := rfl
@[simp] theorem State.consume_stack (s : State) : (s.consume).stack = s.stack := rfl
@[simp] theorem State.consume_DT (s : State) : (s.consume).DT = s.DT := rfl
@[simp] theorem State.consume_ST (s : State) : (s.consume).ST = s.ST := rfl
@[simp] theorem State.consume_key (s : State) : (s.consume).key = s.key := rfl
@[simp] theorem State.consume_fb (s : State) : (s.consume).fb = s.fb := rfl
@[simp] theorem State.consume_mem (s : State) : (s.consume).mem = s.mem := rfl
@[simp] theorem State.consume_opcode (s : State) : (s.consume).opcode = s.opcode := rfl
@[simp] theorem State.consume_init (s : State) : (s.consume).init = s.init := rfl
@[simp] theorem State.consume_fault (s : State) : (s.consume).fault = s.fault := rfl
@[simp] theorem State.consume_unkCount (s : State) : (s.consume).unkCount = s.unkCount := rfl
@[simp] theorem State.consume_cfg (s : State) : (s.consume).cfg = s.cfg := rfl
@[simp] theorem State.consume_draws (s : State) : (s.consume).draws = s.draws + 1 := rfl
@[simp] theorem State.consume_readV (s : State) (r' : Reg) : (s.consume).readV r' = s.readV r' := rfl
@[simp] theorem State.consume_peek (s : State) (a' : Nat) : (s.consume).peek a' = s.peek a' := rfl

/-! ## `setOpcode` -/

@[simp] theorem State.setOpcode_V (s : State) (op : Word) : (s.setOpcode op).V = s.V := rfl
@[simp] theorem State.setOpcode_I (s : State) (op : Word) : (s.setOpcode op).I = s.I := rfl
@[simp] theorem State.setOpcode_pc (s : State) (op : Word) : (s.setOpcode op).pc = s.pc := rfl
@[simp] theorem State.setOpcode_sp (s : State) (op : Word) : (s.setOpcode op).sp = s.sp := rfl
@[simp] theorem State.setOpcode_stack (s : State) (op : Word) : (s.setOpcode op).stack = s.stack := rfl
@[simp] theorem State.setOpcode_DT (s : State) (op : Word) : (s.setOpcode op).DT = s.DT := rfl
@[simp] theorem State.setOpcode_ST (s : State) (op : Word) : (s.setOpcode op).ST = s.ST := rfl
@[simp] theorem State.setOpcode_key (s : State) (op : Word) : (s.setOpcode op).key = s.key := rfl
@[simp] theorem State.setOpcode_fb (s : State) (op : Word) : (s.setOpcode op).fb = s.fb := rfl
@[simp] theorem State.setOpcode_mem (s : State) (op : Word) : (s.setOpcode op).mem = s.mem := rfl
@[simp] theorem State.setOpcode_opcode (s : State) (op : Word) : (s.setOpcode op).opcode = op := rfl
@[simp] theorem State.setOpcode_init (s : State) (op : Word) : (s.setOpcode op).init = s.init := rfl
@[simp] theorem State.setOpcode_fault (s : State) (op : Word) : (s.setOpcode op).fault = s.fault := rfl
@[simp] theorem State.setOpcode_unkCount (s : State) (op : Word) : (s.setOpcode op).unkCount = s.unkCount := rfl
@[simp] theorem State.setOpcode_cfg (s : State) (op : Word) : (s.setOpcode op).cfg = s.cfg := rfl
@[simp] theorem State.setOpcode_draws (s : State) (op : Word) : (s.setOpcode op).draws = s.draws := rfl
@[simp] theorem State.setOpcode_readV (s : State) (op : Word) (r' : Reg) : (s.setOpcode op).readV r' = s.readV r' := rfl
@[simp] theorem State.setOpcode_peek (s : State) (op : Word) (a' : Nat) : (s.setOpcode op).peek a' = s.peek a' := rfl

/-! ## `clearScreen` -/

@[simp] theorem State.clearScreen_V (s : State) : (s.clearScreen).V = s.V := rfl
@[simp] theorem State.clearScreen_I (s : State) : (s.clearScreen).I = s.I := rfl
@[simp] theorem State.clearScreen_pc (s : State) : (s.clearScreen).pc = s.pc := rfl
@[simp] theorem State.clearScreen_sp (s : State) : (s.clearScreen).sp = s.sp := rfl
@[simp] theorem State.clearScreen_stack (s : State) : (s.clearScreen).stack = s.stack := rfl
@[simp] theorem State.clearScreen_DT (s : State) : (s.clearScreen).DT = s.DT := rfl
@[simp] theorem State.clearScreen_ST (s : State) : (s.clearScreen).ST = s.ST := rfl
@[simp] theorem State.clearScreen_key (s : State) : (s.clearScreen).key = s.key := rfl
@[simp] theorem State.clearScreen_fb (s : State) : (s.clearScreen).fb = Framebuffer.clear := rfl
@[simp] theorem State.clearScreen_mem (s : State) : (s.clearScreen).mem = s.mem := rfl
@[simp] theorem State.clearScreen_opcode (s : State) : (s.clearScreen).opcode = s.opcode := rfl
@[simp] theorem State.clearScreen_init (s : State) : (s.clearScreen).init = s.init := rfl
@[simp] theorem State.clearScreen_fault (s : State) : (s.clearScreen).fault = s.fault := rfl
@[simp] theorem State.clearScreen_unkCount (s : State) : (s.clearScreen).unkCount = s.unkCount := rfl
@[simp] theorem State.clearScreen_cfg (s : State) : (s.clearScreen).cfg = s.cfg := rfl
@[simp] theorem State.clearScreen_draws (s : State) : (s.clearScreen).draws = s.draws := rfl
@[simp] theorem State.clearScreen_readV (s : State) (r' : Reg) : (s.clearScreen).readV r' = s.readV r' := rfl
@[simp] theorem State.clearScreen_peek (s : State) (a' : Nat) : (s.clearScreen).peek a' = s.peek a' := rfl

/-! ## `setCanvas` -/

@[simp] theorem State.setCanvas_I (s : State) (c : Canvas) : (s.setCanvas c).I = s.I := rfl
@[simp] theorem State.setCanvas_pc (s : State) (c : Canvas) : (s.setCanvas c).pc = s.pc := rfl
@[simp] theorem State.setCanvas_sp (s : State) (c : Canvas) : (s.setCanvas c).sp = s.sp := rfl
@[simp] theorem State.setCanvas_stack (s : State) (c : Canvas) : (s.setCanvas c).stack = s.stack := rfl
@[simp] theorem State.setCanvas_DT (s : State) (c : Canvas) : (s.setCanvas c).DT = s.DT := rfl
@[simp] theorem State.setCanvas_ST (s : State) (c : Canvas) : (s.setCanvas c).ST = s.ST := rfl
@[simp] theorem State.setCanvas_key (s : State) (c : Canvas) : (s.setCanvas c).key = s.key := rfl
@[simp] theorem State.setCanvas_fb (s : State) (c : Canvas) : (s.setCanvas c).fb = c.fb := rfl
@[simp] theorem State.setCanvas_mem (s : State) (c : Canvas) : (s.setCanvas c).mem = s.mem := rfl
@[simp] theorem State.setCanvas_opcode (s : State) (c : Canvas) : (s.setCanvas c).opcode = s.opcode := rfl
@[simp] theorem State.setCanvas_init (s : State) (c : Canvas) : (s.setCanvas c).init = s.init := rfl
@[simp] theorem State.setCanvas_fault (s : State) (c : Canvas) : (s.setCanvas c).fault = s.fault := rfl
@[simp] theorem State.setCanvas_unkCount (s : State) (c : Canvas) : (s.setCanvas c).unkCount = s.unkCount := rfl
@[simp] theorem State.setCanvas_cfg (s : State) (c : Canvas) : (s.setCanvas c).cfg = s.cfg := rfl
@[simp] theorem State.setCanvas_draws (s : State) (c : Canvas) : (s.setCanvas c).draws = s.draws := rfl
@[simp] theorem State.setCanvas_peek (s : State) (c : Canvas) (a' : Nat) : (s.setCanvas c).peek a' = s.peek a' := rfl

/-! ## `setDT` -/

@[simp] theorem State.setDT_V (s : State) (b : Byte) : (s.setDT b).V = s.V := rfl
@[simp] theorem State.setDT_I (s : State) (b : Byte) : (s.setDT b).I = s.I := rfl
@[simp] theorem State.setDT_pc (s : State) (b : Byte) : (s.setDT b).pc = s.pc := rfl
@[simp] theorem State.setDT_sp (s : State) (b : Byte) : (s.setDT b).sp = s.sp := rfl
@[simp] theorem State.setDT_stack (s : State) (b : Byte) : (s.setDT b).stack = s.stack := rfl
@[simp] theorem State.setDT_DT (s : State) (b : Byte) : (s.setDT b).DT = b := rfl
@[simp] theorem State.setDT_ST (s : State) (b : Byte) : (s.setDT b).ST = s.ST := rfl
@[simp] theorem State.setDT_key (s : State) (b : Byte) : (s.setDT b).key = s.key := rfl
@[simp] theorem State.setDT_fb (s : State) (b : Byte) : (s.setDT b).fb = s.fb := rfl
@[simp] theorem State.setDT_mem (s : State) (b : Byte) : (s.setDT b).mem = s.mem := rfl
@[simp] theorem State.setDT_opcode (s : State) (b : Byte) : (s.setDT b).opcode = s.opcode := rfl
@[simp] theorem State.setDT_init (s : State) (b : Byte) : (s.setDT b).init = s.init := rfl
@[simp] theorem State.setDT_fault (s : State) (b : Byte) : (s.setDT b).fault = s.fault := rfl
@[simp] theorem State.setDT_unkCount (s : State) (b : Byte) : (s.setDT b).unkCount = s.unkCount := rfl
@[simp] theorem State.setDT_cfg (s : State) (b : Byte) : (s.setDT b).cfg = s.cfg := rfl
@[simp] theorem State.setDT_draws (s : State) (b : Byte) : (s.setDT b).draws = s.draws := rfl
@[simp] theorem State.setDT_readV (s : State) (b : Byte) (r' : Reg) : (s.setDT b).readV r' = s.readV r' := rfl
@[simp] theorem State.setDT_peek (s : State) (b : Byte) (a' : Nat) : (s.setDT b).peek a' = s.peek a' := rfl

/-! ## `setST` -/

@[simp] theorem State.setST_V (s : State) (b : Byte) : (s.setST b).V = s.V := rfl
@[simp] theorem State.setST_I (s : State) (b : Byte) : (s.setST b).I = s.I := rfl
@[simp] theorem State.setST_pc (s : State) (b : Byte) : (s.setST b).pc = s.pc := rfl
@[simp] theorem State.setST_sp (s : State) (b : Byte) : (s.setST b).sp = s.sp := rfl
@[simp] theorem State.setST_stack (s : State) (b : Byte) : (s.setST b).stack = s.stack := rfl
@[simp] theorem State.setST_DT (s : State) (b : Byte) : (s.setST b).DT = s.DT := rfl
@[simp] theorem State.setST_ST (s : State) (b : Byte) : (s.setST b).ST = b := rfl
@[simp] theorem State.setST_key (s : State) (b : Byte) : (s.setST b).key = s.key := rfl
@[simp] theorem State.setST_fb (s : State) (b : Byte) : (s.setST b).fb = s.fb := rfl
@[simp] theorem State.setST_mem (s : State) (b : Byte) : (s.setST b).mem = s.mem := rfl
@[simp] theorem State.setST_opcode (s : State) (b : Byte) : (s.setST b).opcode = s.opcode := rfl
@[simp] theorem State.setST_init (s : State) (b : Byte) : (s.setST b).init = s.init := rfl
@[simp] theorem State.setST_fault (s : State) (b : Byte) : (s.setST b).fault = s.fault := rfl
@[simp] theorem State.setST_unkCount (s : State) (b : Byte) : (s.setST b).unkCount = s.unkCount := rfl
@[simp] theorem State.setST_cfg (s : State) (b : Byte) : (s.setST b).cfg = s.cfg := rfl
@[simp] theorem State.setST_draws (s : State) (b : Byte) : (s.setST b).draws = s.draws := rfl
@[simp] theorem State.setST_readV (s : State) (b : Byte) (r' : Reg) : (s.setST b).readV r' = s.readV r' := rfl
@[simp] theorem State.setST_peek (s : State) (b : Byte) (a' : Nat) : (s.setST b).peek a' = s.peek a' := rfl

/-! ## `countUnrecognized` -/

@[simp] theorem State.countUnrecognized_V (s : State) : (s.countUnrecognized).V = s.V := rfl
@[simp] theorem State.countUnrecognized_I (s : State) : (s.countUnrecognized).I = s.I := rfl
@[simp] theorem State.countUnrecognized_pc (s : State) : (s.countUnrecognized).pc = s.pc := rfl
@[simp] theorem State.countUnrecognized_sp (s : State) : (s.countUnrecognized).sp = s.sp := rfl
@[simp] theorem State.countUnrecognized_stack (s : State) : (s.countUnrecognized).stack = s.stack := rfl
@[simp] theorem State.countUnrecognized_DT (s : State) : (s.countUnrecognized).DT = s.DT := rfl
@[simp] theorem State.countUnrecognized_ST (s : State) : (s.countUnrecognized).ST = s.ST := rfl
@[simp] theorem State.countUnrecognized_key (s : State) : (s.countUnrecognized).key = s.key := rfl
@[simp] theorem State.countUnrecognized_fb (s : State) : (s.countUnrecognized).fb = s.fb := rfl
@[simp] theorem State.countUnrecognized_mem (s : State) : (s.countUnrecognized).mem = s.mem := rfl
@[simp] theorem State.countUnrecognized_opcode (s : State) : (s.countUnrecognized).opcode = s.opcode := rfl
@[simp] theorem State.countUnrecognized_init (s : State) : (s.countUnrecognized).init = s.init := rfl
@[simp] theorem State.countUnrecognized_fault (s : State) : (s.countUnrecognized).fault = s.fault := rfl
@[simp] theorem State.countUnrecognized_unkCount (s : State) : (s.countUnrecognized).unkCount = min (s.unkCount + 1) (2 ^ s.cfg.unkWidth - 1) := rfl
@[simp] theorem State.countUnrecognized_cfg (s : State) : (s.countUnrecognized).cfg = s.cfg := rfl
@[simp] theorem State.countUnrecognized_draws (s : State) : (s.countUnrecognized).draws = s.draws := rfl
@[simp] theorem State.countUnrecognized_readV (s : State) (r' : Reg) : (s.countUnrecognized).readV r' = s.readV r' := rfl
@[simp] theorem State.countUnrecognized_peek (s : State) (a' : Nat) : (s.countUnrecognized).peek a' = s.peek a' := rfl

/-! ## A skip changes pc only -/

@[simp] theorem State.skipIf_V (s : State) (c : Bool) : (s.skipIf c).V = s.V := by cases c <;> rfl
@[simp] theorem State.skipIf_I (s : State) (c : Bool) : (s.skipIf c).I = s.I := by cases c <;> rfl
@[simp] theorem State.skipIf_sp (s : State) (c : Bool) : (s.skipIf c).sp = s.sp := by cases c <;> rfl
@[simp] theorem State.skipIf_stack (s : State) (c : Bool) : (s.skipIf c).stack = s.stack := by cases c <;> rfl
@[simp] theorem State.skipIf_DT (s : State) (c : Bool) : (s.skipIf c).DT = s.DT := by cases c <;> rfl
@[simp] theorem State.skipIf_ST (s : State) (c : Bool) : (s.skipIf c).ST = s.ST := by cases c <;> rfl
@[simp] theorem State.skipIf_key (s : State) (c : Bool) : (s.skipIf c).key = s.key := by cases c <;> rfl
@[simp] theorem State.skipIf_fb (s : State) (c : Bool) : (s.skipIf c).fb = s.fb := by cases c <;> rfl
@[simp] theorem State.skipIf_mem (s : State) (c : Bool) : (s.skipIf c).mem = s.mem := by cases c <;> rfl
@[simp] theorem State.skipIf_opcode (s : State) (c : Bool) : (s.skipIf c).opcode = s.opcode := by cases c <;> rfl
@[simp] theorem State.skipIf_init (s : State) (c : Bool) : (s.skipIf c).init = s.init := by cases c <;> rfl
@[simp] theorem State.skipIf_fault (s : State) (c : Bool) : (s.skipIf c).fault = s.fault := by cases c <;> rfl
@[simp] theorem State.skipIf_unkCount (s : State) (c : Bool) : (s.skipIf c).unkCount = s.unkCount := by cases c <;> rfl
@[simp] theorem State.skipIf_cfg (s : State) (c : Bool) : (s.skipIf c).cfg = s.cfg := by cases c <;> rfl
@[simp] theorem State.skipIf_draws (s : State) (c : Bool) : (s.skipIf c).draws = s.draws := by cases c <;> rfl
@[simp] theorem State.skipIf_pc (s : State) (c : Bool) : (s.skipIf c).pc = if c then s.pc + 4 else s.pc + 2 := by
  cases c <;> rfl
@[simp] theorem State.skipIf_readV (s : State) (c : Bool) (r : Reg) : (s.skipIf c).readV r = s.readV r := by cases c <;> rfl
@[simp] theorem State.skipIf_peek (s : State) (c : Bool) (a : Nat) : (s.skipIf c).peek a = s.peek a := by cases c <;> rfl

/-! ## Storing registers changes memory only, loading them V only -/

@[simp] theorem State.storeRegs_V (s : State) (n : Nat) : (s.storeRegs n).V = s.V := by
  induction n with
  | zero => rfl
  | succ n ih => exact ih
@[simp] theorem State.storeRegs_I (s : State) (n : Nat) : (s.storeRegs n).I = s.I := by
  induction n with
  | zero => rfl
  | succ n ih => exact ih
@[simp] theorem State.storeRegs_pc (s : State) (n : Nat) : (s.storeRegs n).pc = s.pc := by
  induction n with
  | zero => rfl
  | succ n ih => exact ih
@[simp] theorem State.storeRegs_sp (s : State) (n : Nat) : (s.storeRegs n).sp = s.sp := by
  induction n with
  | zero => rfl
  | succ n ih => exact ih
@[simp] theorem State.storeRegs_stack (s : State) (n : Nat) : (s.storeRegs n).stack = s.stack := by
  induction n with
  | zero => rfl
  | succ n ih => exact ih
@[simp] theorem State.storeRegs_DT (s : State) (n : Nat) : (s.storeRegs n).DT = s.DT := by
  induction n with
  | zero => rfl
  | succ n ih => exact ih
@[simp] theorem State.storeRegs_ST (s : State) (n : Nat) : (s.storeRegs n).ST = s.ST := by
  induction n with
  | zero => rfl
  | succ n ih => exact ih
@[simp] theorem State.storeRegs_key (s : State) (n : Nat) : (s.storeRegs n).key = s.key := by
  induction n with
  | zero => rfl
  | succ n ih => exact ih
@[simp] theorem State.storeRegs_fb (s : State) (n : Nat) : (s.storeRegs n).fb = s.fb := by
  induction n with
  | zero => rfl
  | succ n ih => exact ih
@[simp] theorem State.storeRegs_opcode (s : State) (n : Nat) : (s.storeRegs n).opcode = s.opcode := by
  induction n with
  | zero => rfl
  | succ n ih => exact ih
@[simp] theorem State.storeRegs_init (s : State) (n : Nat) : (s.storeRegs n).init = s.init := by
  induction n with
  | zero => rfl
  | succ n ih => exact ih
@[simp] theorem State.storeRegs_fault (s : State) (n : Nat) : (s.storeRegs n).fault = s.fault := by
  induction n with
  | zero => rfl
  | succ n ih => exact ih
@[simp] theorem State.storeRegs_unkCount (s : State) (n : Nat) : (s.storeRegs n).unkCount = s.unkCount := by
  induction n with
  | zero => rfl
  | succ n ih => exact ih
@[simp] theorem State.storeRegs_cfg (s : State) (n : Nat) : (s.storeRegs n).cfg = s.cfg := by
  induction n with
  | zero => rfl
  | succ n ih => exact ih
@[simp] theorem State.storeRegs_draws (s : State) (n : Nat) : (s.storeRegs n).draws = s.draws := by
  induction n with
  | zero => rfl
  | succ n ih => exact ih
@[simp] theorem State.loadRegs_I (s : State) (n : Nat) : (s.loadRegs n).I = s.I := by
  induction n with
  | zero => rfl
  | succ n ih => exact ih
@[simp] theorem State.loadRegs_pc (s : State) (n : Nat) : (s.loadRegs n).pc = s.pc := by
  induction n with
  | zero => rfl
  | succ n ih => exact ih
@[simp] theorem State.loadRegs_sp (s : State) (n : Nat) : (s.loadRegs n).sp = s.sp := by
  induction n with
  | zero => rfl
  | succ n ih => exact ih
@[simp] theorem State.loadRegs_stack (s : State) (n : Nat) : (s.loadRegs n).stack = s.stack := by
  induction n with
  | zero => rfl
  | succ n ih => exact ih
@[simp] theorem State.loadRegs_DT (s : State) (n : Nat) : (s.loadRegs n).DT = s.DT := by
  induction n with
  | zero => rfl
  | succ n ih => exact ih
@[simp] theorem State.loadRegs_ST (s : State) (n : Nat) : (s.loadRegs n).ST = s.ST := by
  induction n with
  | zero => rfl
  | succ n ih => exact ih
@[simp] theorem State.loadRegs_key (s : State) (n : Nat) : (s.loadRegs n).key = s.key := by
  induction n with
  | zero => rfl
  | succ n ih => exact ih
@[simp] theorem State.loadRegs_fb (s : State) (n : Nat) : (s.loadRegs n).fb = s.fb := by
  induction n with
  | zero => rfl
  | succ n ih => exact ih
@[simp] theorem State.loadRegs_mem (s : State) (n : Nat) : (s.loadRegs n).mem = s.mem := by
  induction n with
  | zero => rfl
  | succ n ih => exact ih
@[simp] theorem State.loadRegs_opcode (s : State) (n : Nat) : (s.loadRegs n).opcode = s.opcode := by
  induction n with
  | zero => rfl
  | succ n ih => exact ih
@[simp] theorem State.loadRegs_init (s : State) (n : Nat) : (s.loadRegs n).init = s.init := by
  induction n with
  | zero => rfl
  | succ n ih => exact ih
@[simp] theorem State.loadRegs_fault (s : State) (n : Nat) : (s.loadRegs n).fault = s.fault := by
  induction n with
  | zero => rfl
  | succ n ih => exact ih
@[simp] theorem State.loadRegs_unkCount (s : State) (n : Nat) : (s.loadRegs n).unkCount = s.unkCount := by
  induction n with
  | zero => rfl
  | succ n ih => exact ih
@[simp] theorem State.loadRegs_cfg (s : State) (n : Nat) : (s.loadRegs n).cfg = s.cfg := by
  induction n with
  | zero => rfl
  | succ n ih => exact ih
@[simp] theorem State.loadRegs_draws (s : State) (n : Nat) : (s.loadRegs n).draws = s.draws := by
  induction n with
  | zero => rfl
  | succ n ih => exact ih

/-! ## Copying a list of bytes changes memory only -/

@[simp] theorem State.pokeList_V (s : State) (a : Nat) (bs : List Byte) : (s.pokeList a bs).V = s.V := by
  induction bs generalizing s a with
  | nil => rfl
  | cons b bs ih => exact ih (s.poke a b) (a + 1)
@[simp] theorem State.pokeList_I (s : State) (a : Nat) (bs : List Byte) : (s.pokeList a bs).I = s.I := by
  induction bs generalizing s a with
  | nil => rfl
  | cons b bs ih => exact ih (s.poke a b) (a + 1)
@[simp] theorem State.pokeList_pc (s : State) (a : Nat) (bs : List Byte) : (s.pokeList a bs).pc = s.pc := by
  induction bs generalizing s a with
  | nil => rfl
  | cons b bs ih => exact ih (s.poke a b) (a + 1)
@[simp] theorem State.pokeList_sp (s : State) (a : Nat) (bs : List Byte) : (s.pokeList a bs).sp = s.sp := by
  induction bs generalizing s a with
  | nil => rfl
  | cons b bs ih => exact ih (s.poke a b) (a + 1)
@[simp] theorem State.pokeList_stack (s : State) (a : Nat) (bs : List Byte) : (s.pokeList a bs).stack = s.stack := by
  induction bs generalizing s a with
  | nil => rfl
  | cons b bs ih => exact ih (s.poke a b) (a + 1)
@[simp] theorem State.pokeList_DT (s : State) (a : Nat) (bs : List Byte) : (s.pokeList a bs).DT = s.DT := by
  induction bs generalizing s a with
  | nil => rfl
  | cons b bs ih => exact ih (s.poke a b) (a + 1)
@[simp] theorem State.pokeList_ST (s : State) (a : Nat) (bs : List Byte) : (s.pokeList a bs).ST = s.ST := by
  induction bs generalizing s a with
  | nil => rfl
  | cons b bs ih => exact ih (s.poke a b) (a + 1)
@[simp] theorem State.pokeList_key (s : State) (a : Nat) (bs : List Byte) : (s.pokeList a bs).key = s.key := by
  induction bs generalizing s a with
  | nil => rfl
  | cons b bs ih => exact ih (s.poke a b) (a + 1)
@[simp] theorem State.pokeList_fb (s : State) (a : Nat) (bs : List Byte) : (s.pokeList a bs).fb = s.fb := by
  induction bs generalizing s a with
  | nil => rfl
  | cons b bs ih => exact ih (s.poke a b) (a + 1)
@[simp] theorem State.pokeList_opcode (s : State) (a : Nat) (bs : List Byte) : (s.pokeList a bs).opcode = s.opcode := by
  induction bs generalizing s a with
  | nil => rfl
  | cons b bs ih => exact ih (s.poke a b) (a + 1)
@[simp] theorem State.pokeList_init (s : State) (a : Nat) (bs : List Byte) : (s.pokeList a bs).init = s.init := by
  induction bs generalizing s a with
  | nil => rfl
  | cons b bs ih => exact ih (s.poke a b) (a + 1)
@[simp] theorem State.pokeList_fault (s : State) (a : Nat) (bs : List Byte) : (s.pokeList a bs).fault = s.fault := by
  induction bs generalizing s a with
  | nil => rfl
  | cons b bs ih => exact ih (s.poke a b) (a + 1)
@[simp] theorem State.pokeList_unkCount (s : State) (a : Nat) (bs : List Byte) : (s.pokeList a bs).unkCount = s.unkCount := by
  induction bs generalizing s a with
  | nil => rfl
  | cons b bs ih => exact ih (s.poke a b) (a + 1)
@[simp] theorem State.pokeList_cfg (s : State) (a : Nat) (bs : List Byte) : (s.pokeList a bs).cfg = s.cfg := by
  induction bs generalizing s a with
  | nil => rfl
  | cons b bs ih => exact ih (s.poke a b) (a + 1)
@[simp] theorem State.pokeList_draws (s : State) (a : Nat) (bs : List Byte) : (s.pokeList a bs).draws = s.draws := by
  induction bs generalizing s a with
  | nil => rfl
  | cons b bs ih => exact ih (s.poke a b) (a + 1)

end Sys2Proof.Machine
end

