-- ==== Sys2Proof/Laws/Ops.lean ====
section
/-!
SUPPORT. What each shared operation does, said once: registers, memory, the store and load loops, the range check, the skip, fetching,
and the shapes of a next state.
-/

namespace Sys2Proof.Machine

/-! ## Registers -/

/-- A register read after a register written. -/
theorem State.readV_writeV (s : State) (r r' : Reg) (b : Byte) :
    (s.writeV r b).readV r' = if r' = r then b else s.readV r' := by
  simp only [State.readV, State.writeV, Vector.getElem_set]
  by_cases h : r' = r
  · subst h; simp
  · have : ¬ r.toNat = r'.toNat := fun e => h (BitVec.toNat_inj.1 e.symm)
    simp [h, this]

@[simp] theorem State.readV_writeV_self (s : State) (r : Reg) (b : Byte) : (s.writeV r b).readV r = b := by
  rw [State.readV_writeV, if_pos rfl]

theorem State.readV_writeV_ne (s : State) {r r' : Reg} (b : Byte) (h : r' ≠ r) : (s.writeV r b).readV r' = s.readV r' := by
  rw [State.readV_writeV, if_neg h]

/-- A register read after the flag was written. -/
theorem State.readV_setFlag (s : State) (c : Byte) (r : Reg) :
    (s.setFlag c).readV r = if r = VF then c else s.readV r := State.readV_writeV s VF r c

@[simp] theorem State.setCanvas_readV (s : State) (c : Canvas) (r : Reg) :
    (s.setCanvas c).readV r = if r = VF then flag c.hit else s.readV r :=
  State.readV_writeV { s with fb := c.fb } VF r (flag c.hit)

/-! ## Operands and flags as numbers -/

@[simp] theorem zext16_toNat (nnn : Addr12) : (zext16 nnn).toNat = nnn.toNat := by
  have := nnn.isLt
  simp only [zext16, BitVec.toNat_setWidth]; omega

@[simp] theorem byteToWord_toNat (b : Byte) : (byteToWord b).toNat = b.toNat := by
  have := b.isLt
  simp only [byteToWord, BitVec.toNat_setWidth]; omega

@[simp] theorem flag_toNat (c : Bool) : (flag c).toNat = if c then 1 else 0 := by cases c <;> rfl

theorem flag_eq_one (c : Bool) : flag c = 1#8 ↔ c = true := by cases c <;> decide

theorem flag_eq_zero (c : Bool) : flag c = 0#8 ↔ c = false := by cases c <;> decide

/-! ## Memory -/

/-- A byte read after a byte written. -/
theorem State.peek_poke (s : State) (a a' : Nat) (b : Byte) :
    (s.poke a b).peek a' = if a' = a then b else s.peek a' := Memory.read_write s.mem a b a'

/-- `FX55`'s loop stores `V[k]` at `I + k` for `k < n`, and no other byte. -/
theorem State.peek_storeRegs (s : State) (n : Nat) (a : Nat) :
    (s.storeRegs n).peek a =
      if s.I.toNat ≤ a ∧ a < s.I.toNat + n then s.readV (BitVec.ofNat 4 (a - s.I.toNat)) else s.peek a := by
  induction n with
  | zero => rw [if_neg (by omega)]; rfl
  | succ n ih =>
    rw [State.storeRegs, State.peek_poke, ih]
    by_cases h : a = s.I.toNat + n
    · subst h
      rw [if_pos rfl, if_pos (by omega), Nat.add_sub_cancel_left]
    · rw [if_neg h]
      by_cases h' : s.I.toNat ≤ a ∧ a < s.I.toNat + n
      · rw [if_pos h', if_pos (by omega)]
      · rw [if_neg h', if_neg (by omega)]

@[simp] theorem State.storeRegs_readV (s : State) (n : Nat) (r : Reg) : (s.storeRegs n).readV r = s.readV r := by
  simp only [State.readV, State.storeRegs_V]

@[simp] theorem State.loadRegs_peek (s : State) (n : Nat) (a : Nat) : (s.loadRegs n).peek a = s.peek a := by
  simp only [State.peek, State.loadRegs_mem, State.loadRegs_cfg]

/-- `FX65`'s loop loads `V[k]` from `I + k` for `k < n`, and no other register. -/
theorem State.readV_loadRegs (s : State) {n : Nat} (hn : n ≤ 16) (r : Reg) :
    (s.loadRegs n).readV r = if r.toNat < n then s.peek (s.I.toNat + r.toNat) else s.readV r := by
  induction n with
  | zero => rw [if_neg (by omega)]; rfl
  | succ n ih =>
    rw [State.loadRegs, State.readV_writeV, ih (by omega)]
    have hr : r = BitVec.ofNat 4 n ↔ r.toNat = n := by
      rw [← BitVec.toNat_inj, BitVec.toNat_ofNat, Nat.mod_eq_of_lt (by omega)]
    by_cases h : r.toNat = n
    · rw [if_pos (hr.2 h), if_pos (by omega), h]
    · rw [if_neg (fun e => h (hr.1 e))]
      by_cases h' : r.toNat < n
      · rw [if_pos h', if_pos (by omega)]
      · rw [if_neg h', if_neg (by omega)]

/-- Copying a list puts its `k`-th byte at `a + k`, and writes no other byte. -/
theorem State.peek_pokeList (s : State) (a : Nat) (bs : List Byte) (a' : Nat) :
    (s.pokeList a bs).peek a' = if h : a ≤ a' ∧ a' - a < bs.length then bs[a' - a] else s.peek a' := by
  induction bs generalizing s a with
  | nil => simp [State.pokeList]
  | cons b bs ih =>
    rw [State.pokeList, ih, State.peek_poke]
    by_cases h0 : a' = a
    · subst h0
      rw [dif_neg (by omega), if_pos rfl, dif_pos (by simp)]
      simp
    · by_cases h1 : a + 1 ≤ a' ∧ a' - (a + 1) < bs.length
      · rw [dif_pos h1, dif_pos (by simp only [List.length_cons]; omega)]
        obtain ⟨k, rfl⟩ : ∃ k, a' = a + 1 + k := ⟨a' - (a + 1), by omega⟩
        simp [show a + 1 + k - a = k + 1 by omega]
      · rw [dif_neg h1, if_neg h0, dif_neg (by simp only [List.length_cons]; omega)]

/-- The three digit stores of `FX33`. -/
theorem State.peek_storeDigits (s : State) (v : Byte) (a : Nat) :
    (s.storeDigits v).peek a =
      if a = s.I.toNat + 2 then v % 10
      else if a = s.I.toNat + 1 then v / 10 % 10
      else if a = s.I.toNat then v / 100
      else s.peek a := by
  simp only [State.storeDigits, State.peek_poke, State.addr, Nat.add_zero]

/-! ## Canonical memory is kept -/

theorem State.poke_wf {s : State} (h : s.mem.wf s.cfg.font) {a : Nat} (ha : a < memSize) (b : Byte) :
    (s.poke a b).mem.wf (s.poke a b).cfg.font := Memory.write_wf h ha b

theorem State.storeRegs_wf {s : State} (h : s.mem.wf s.cfg.font) {n : Nat} (hn : s.I.toNat + n ≤ memSize) :
    (s.storeRegs n).mem.wf (s.storeRegs n).cfg.font := by
  induction n with
  | zero => exact h
  | succ n ih => exact State.poke_wf (ih (by omega)) (by omega) _

theorem State.storeDigits_wf {s : State} (h : s.mem.wf s.cfg.font) (hn : s.I.toNat + 3 ≤ memSize) (v : Byte) :
    (s.storeDigits v).mem.wf (s.storeDigits v).cfg.font :=
  State.poke_wf (State.poke_wf (State.poke_wf h (by simp only [State.addr]; omega) _)
    (by simp only [State.addr]; omega) _) (by simp only [State.addr]; omega) _

theorem State.pokeList_wf {s : State} (h : s.mem.wf s.cfg.font) {a : Nat} {bs : List Byte} (hn : a + bs.length ≤ memSize) :
    (s.pokeList a bs).mem.wf (s.pokeList a bs).cfg.font := by
  induction bs generalizing s a with
  | nil => exact h
  | cons b bs ih =>
    simp only [List.length_cons] at hn
    exact ih (State.poke_wf h (by omega) b) (by omega)

/-! ## The range check -/

theorem State.outOfRange_iff (s : State) (len : Nat) :
    s.outOfRange len = true ↔ 0 < len ∧ 0xFFF < s.I.toNat + len - 1 := by simp [State.outOfRange]

theorem State.checked_of_in {s : State} {len : Nat} (h : s.I.toNat + len ≤ memSize) (r : Result) : s.checked len r = r := by
  have : s.outOfRange len = false := by
    rw [← Bool.not_eq_true, State.outOfRange_iff]; simp only [memSize] at h; omega
  simp [State.checked, this]

theorem State.checked_of_out {s : State} {len : Nat} (h0 : 0 < len) (h : memSize < s.I.toNat + len) (r : Result) :
    s.checked len r = raise .memOutOfRange s := by
  have : s.outOfRange len = true := by rw [State.outOfRange_iff]; simp only [memSize] at h; omega
  simp [State.checked, this]

theorem State.checked_zero (s : State) (r : Result) : s.checked 0 r = r := by simp [State.checked, State.outOfRange]

/-- What a checked access answers: the fault, or what the instruction answers with its bytes in range. -/
theorem State.checked_next {s t : State} {len : Nat} {r : Result} (h : s.checked len r = .next t) :
    (0 < len ∧ memSize < s.I.toNat + len ∧ t = s.raised .memOutOfRange) ∨
    ((len = 0 ∨ s.I.toNat + len ≤ memSize) ∧ r = .next t) := by
  unfold State.checked at h
  split at h
  case isTrue ho =>
    rw [State.outOfRange_iff] at ho
    refine .inl ⟨ho.1, by simp only [memSize]; omega, ?_⟩
    exact (Host.Outcome.next.inj h).symm
  case isFalse ho =>
    rw [State.outOfRange_iff] at ho
    exact .inr ⟨by simp only [memSize]; omega, h⟩

/-! ## Next states -/

theorem raise_next {k : FaultKind} {s t : State} : raise k s = .next t ↔ t = s.raised k := by
  simp [raise, eq_comm]

theorem done_next {s t : State} : done s = .next t ↔ t = s.advance := by simp [done, eq_comm]

/-! ## Fetch -/

theorem State.fetch16_of_le {s : State} (h : s.pc.toNat ≤ 0xFFE) :
    s.fetch16 = some (wordOfBytes (s.peek s.pc.toNat) (s.peek (s.pc.toNat + 1))) := by simp [State.fetch16, h]

theorem State.fetch16_of_gt {s : State} (h : 0xFFE < s.pc.toNat) : s.fetch16 = none := by
  simp [State.fetch16, Nat.not_le.2 h]

theorem State.fetch16_some {s : State} {op : Word} (h : s.fetch16 = some op) :
    s.pc.toNat ≤ 0xFFE ∧ op = wordOfBytes (s.peek s.pc.toNat) (s.peek (s.pc.toNat + 1)) := by
  unfold State.fetch16 at h
  split at h
  · exact ⟨by assumption, (Option.some.inj h).symm⟩
  · cases h

/-! ## The step -/

/-- Everything a step can answer: the two refusals, the fetch fault, an unrecognized word, or the meaning of the fetched
instruction. -/
theorem step_cases (s : State) :
    (s.init = false ∧ step s = .refused .notReset) ∨
    (s.init = true ∧ s.fault ≠ none ∧ step s = .refused .halted) ∨
    (s.init = true ∧ s.fault = none ∧ 0xFFE < s.pc.toNat ∧ step s = .next (s.raised .fetchOutOfRange)) ∨
    (∃ op, s.init = true ∧ s.fault = none ∧ s.fetch16 = some op ∧ s.pc.toNat ≤ 0xFFE ∧ decodeWord op = none ∧
      step s = .next (unrecognizedStep op (s.setOpcode op))) ∨
    (∃ op i, s.init = true ∧ s.fault = none ∧ s.fetch16 = some op ∧ s.pc.toNat ≤ 0xFFE ∧ decodeWord op = some i ∧
      step s = exec i (s.setOpcode op)) := by
  unfold step cycle
  by_cases hi : s.init = false
  · simp [hi]
  · have hi : s.init = true := by simpa using hi
    by_cases hf : s.fault = none
    · by_cases hp : s.pc.toNat ≤ 0xFFE
      · have hop := State.fetch16_of_le hp
        generalize wordOfBytes (s.peek s.pc.toNat) (s.peek (s.pc.toNat + 1)) = op at hop
        cases hd : decodeWord op with
        | none => simp [hi, hf, hp, hop, hd, runWord]
        | some i => simp [hi, hf, hp, hop, hd, runWord]
      · have hop := State.fetch16_of_gt (Nat.not_le.1 hp)
        simp [hi, hf, hop, raise, Nat.not_le.1 hp]
    · simp [hi, hf]

/-! ## Drawing -/

theorem Canvas.plot_some (c : Canvas) (p : Pixel) :
    c.plot (some p) = { fb := c.fb.put p (!c.fb.get p), hit := c.hit || c.fb.get p } := rfl

/-- A plotted pixel is inverted, every other one stays. -/
theorem Canvas.get_plot (c : Canvas) (t : Option Pixel) (q : Pixel) :
    (c.plot t).fb.get q = if t = some q then !c.fb.get q else c.fb.get q := by
  cases t with
  | none => simp [Canvas.plot]
  | some p =>
    rw [Canvas.plot_some, Framebuffer.get_put]
    by_cases h : q = p
    · subst h; simp
    · simp [h, Ne.symm h]

end Sys2Proof.Machine
end

