-- ==== Sys2Proof/Laws/Draw.lean ====
section
/-!
SUPPORT. What drawing does, said once: the target of a sprite bit, the pixels a row of a sprite inverts and whether it collides, the
same for the whole sprite, and what `DXYN` can answer.
-/

namespace Sys2Proof.Machine

theorem gridPixel_eq_some {x y : Nat} {p : Pixel} : gridPixel x y = some p ↔ p.1.val = x ∧ p.2.val = y := by
  obtain ⟨px, py⟩ := p
  unfold gridPixel
  split
  · simp only [Option.some.injEq, Prod.mk.injEq, Fin.ext_iff]
    omega
  · have := px.isLt
    have := py.isLt
    simp only [reduceCtorEq, false_iff]
    omega

/-- The target function is the relation of R118 to R120. -/
theorem target_eq_some {edge : DrawEdge} {x y : Nat} {p : Pixel} : target edge x y = some p ↔ Targets edge x y p := by
  cases edge <;> exact gridPixel_eq_some

/-- Two columns less than 64 apart have no common target. -/
theorem Targets.column_inj {edge : DrawEdge} {x y i j : Nat} {p : Pixel} (h : Targets edge (x + i) y p)
    (h' : Targets edge (x + j) y p) (hi : i < 64) (hj : j < 64) : i = j := by
  cases edge <;> simp only [Targets] at h h' <;> omega

/-- Two rows less than 32 apart have no common target. -/
theorem Targets.row_inj {edge : DrawEdge} {x x' y i j : Nat} {p : Pixel} (h : Targets edge x (y + i) p)
    (h' : Targets edge x' (y + j) p) (hi : i < 32) (hj : j < 32) : i = j := by
  cases edge <;> simp only [Targets] at h h' <;> omega

/-- `p` is the target of one of the first `n` set bits of a sprite row drawn at column `x`, row `y`. -/
def RowHits (edge : DrawEdge) (x y : Nat) (row : Byte) (n : Nat) (p : Pixel) : Prop :=
  ∃ k < n, row.getLsbD (7 - k) = true ∧ Targets edge (x + k) y p

theorem RowHits.succ {edge : DrawEdge} {x y : Nat} {row : Byte} {n : Nat} {p : Pixel} :
    RowHits edge x y row (n + 1) p ↔ RowHits edge x y row n p ∨ (row.getLsbD (7 - n) = true ∧ Targets edge (x + n) y p) := by
  constructor
  · rintro ⟨k, hk, h⟩
    rcases Nat.lt_succ_iff_lt_or_eq.1 hk with hk | rfl
    · exact .inl ⟨k, hk, h⟩
    · exact .inr h
  · rintro (⟨k, hk, h⟩ | h)
    · exact ⟨k, by omega, h⟩
    · exact ⟨n, by omega, h⟩

/-- One more plot on a canvas that has inverted the pixels of `A` and not yet the target `q`. -/
theorem Canvas.plot_spec {c c' : Canvas} {A : Pixel → Prop} (hA : ∀ p, c'.fb.get p ≠ c.fb.get p ↔ A p)
    (hh : c'.hit = true ↔ c.hit = true ∨ ∃ p, A p ∧ c.fb.get p = true) {t : Option Pixel} (ht : ∀ q, t = some q → ¬ A q) :
    (∀ p, (c'.plot t).fb.get p ≠ c.fb.get p ↔ A p ∨ t = some p) ∧
    ((c'.plot t).hit = true ↔ c.hit = true ∨ ∃ p, (A p ∨ t = some p) ∧ c.fb.get p = true) := by
  cases t with
  | none =>
    simp only [reduceCtorEq, or_false]
    exact ⟨hA, hh⟩
  | some q =>
    have hq : c'.fb.get q = c.fb.get q := not_not.1 (fun h => ht q rfl ((hA q).1 h))
    constructor
    · intro p
      rw [Canvas.get_plot]
      by_cases h : q = p
      · subst h; simp [hq]
      · simp [h, hA]
    · rw [Canvas.plot_some]
      simp only [Bool.or_eq_true, hh, hq, Option.some.injEq]
      constructor
      · rintro ((h | ⟨p, h, hp⟩) | h)
        · exact .inl h
        · exact .inr ⟨p, .inl h, hp⟩
        · exact .inr ⟨q, .inr rfl, h⟩
      · rintro (h | ⟨p, h | rfl, hp⟩)
        · exact .inl (.inl h)
        · exact .inl (.inr ⟨p, h, hp⟩)
        · exact .inr hp

/-- A sprite row inverts exactly the targets of its set bits and collides exactly when one of them was lit. -/
theorem drawRow_spec (edge : DrawEdge) (x y : Nat) (row : Byte) {n : Nat} (hn : n ≤ 8) (c : Canvas) :
    (∀ p, (drawRow edge x y row n c).fb.get p ≠ c.fb.get p ↔ RowHits edge x y row n p) ∧
    ((drawRow edge x y row n c).hit = true ↔ c.hit = true ∨ ∃ p, RowHits edge x y row n p ∧ c.fb.get p = true) := by
  induction n with
  | zero => simp [drawRow, RowHits]
  | succ n ih =>
    obtain ⟨ih1, ih2⟩ := ih (by omega)
    simp only [RowHits.succ]
    unfold drawRow
    dsimp only
    by_cases hb : row.getLsbD (7 - n) = true
    · have ht : ∀ q, target edge (x + n) y = some q → ¬ RowHits edge x y row n q := by
        rintro q hq ⟨k, hk, -, h⟩
        have := Targets.column_inj (target_eq_some.1 hq) h (by omega) (by omega)
        omega
      rw [if_pos hb]
      simp only [hb, true_and, ← target_eq_some]
      exact Canvas.plot_spec ih1 ih2 ht
    · rw [if_neg hb]
      simp only [hb, Bool.false_eq_true, false_and, or_false]
      exact ⟨ih1, ih2⟩

theorem Covered.succ {s : State} {x y n : Nat} {p : Pixel} :
    Covered s x y (n + 1) p ↔ Covered s x y n p ∨ RowHits s.cfg.drawEdge x (y + n) (s.peek (s.addr n)) 8 p := by
  constructor
  · rintro ⟨r, hr, h⟩
    rcases Nat.lt_succ_iff_lt_or_eq.1 hr with hr | rfl
    · exact .inl ⟨r, hr, h⟩
    · exact .inr h
  · rintro (⟨r, hr, h⟩ | h)
    · exact ⟨r, by omega, h⟩
    · exact ⟨n, by omega, h⟩

/-- A sprite inverts exactly the targets of its set bits and collides exactly when one of them was lit. -/
theorem State.drawRows_spec (s : State) (x y : Nat) {n : Nat} (hn : n ≤ 16) (c : Canvas) :
    (∀ p, (s.drawRows x y n c).fb.get p ≠ c.fb.get p ↔ Covered s x y n p) ∧
    ((s.drawRows x y n c).hit = true ↔ c.hit = true ∨ ∃ p, Covered s x y n p ∧ c.fb.get p = true) := by
  induction n with
  | zero => simp [State.drawRows, Covered]
  | succ n ih =>
    obtain ⟨ih1, ih2⟩ := ih (by omega)
    obtain ⟨h1, h2⟩ := drawRow_spec s.cfg.drawEdge x (y + n) (s.peek (s.addr n)) (Nat.le_refl 8) (s.drawRows x y n c)
    -- a pixel of the new row is a pixel of no earlier one
    have hd : ∀ p, RowHits s.cfg.drawEdge x (y + n) (s.peek (s.addr n)) 8 p → ¬ Covered s x y n p := by
      rintro p ⟨k, -, -, hk⟩ ⟨r, hr, k', -, -, hk'⟩
      have := Targets.row_inj hk hk' (by omega) (by omega)
      omega
    have hsame : ∀ p, RowHits s.cfg.drawEdge x (y + n) (s.peek (s.addr n)) 8 p →
        (s.drawRows x y n c).fb.get p = c.fb.get p := fun p hp => not_not.1 (fun h => hd p hp ((ih1 p).1 h))
    simp only [Covered.succ]
    rw [State.drawRows]
    constructor
    · intro p
      by_cases hp : RowHits s.cfg.drawEdge x (y + n) (s.peek (s.addr n)) 8 p
      · simp only [hp, or_true, iff_true]
        rw [← hsame p hp]
        exact (h1 p).2 hp
      · simp only [hp, or_false]
        rw [not_not.1 (fun h => hp ((h1 p).1 h))]
        exact ih1 p
    · rw [h2, ih2]
      constructor
      · rintro ((h | ⟨p, h, hp⟩) | ⟨p, h, hp⟩)
        · exact .inl h
        · exact .inr ⟨p, .inl h, hp⟩
        · exact .inr ⟨p, .inr h, by rw [← hsame p h]; exact hp⟩
      · rintro (h | ⟨p, h | h, hp⟩)
        · exact .inl (.inl h)
        · exact .inl (.inr ⟨p, h, hp⟩)
        · exact .inr ⟨p, h, by rw [hsame p h]; exact hp⟩

theorem offGrid_iff {x y n : Nat} (h : 0 < n) : offGrid x y n = true ↔ BeyondGrid x y n := by
  simp only [offGrid, BeyondGrid, decide_eq_true_eq]; omega

/-- The state a completed `DXYN` leaves. -/
def State.drewState (s : State) (x y : Reg) (n : Nibble) : State :=
  (s.setCanvas (s.drawRows (s.readV x).toNat (s.readV y).toNat n.toNat { fb := s.fb, hit := false })).advance

/-- What `DXYN` can answer: one of its two faults, the grid first, or the completed draw. -/
theorem execDrw_cases (x y : Reg) (n : Nibble) (s : State) :
    (0 < n.toNat ∧ s.cfg.drawEdge = .fault ∧ BeyondGrid (s.readV x).toNat (s.readV y).toNat n.toNat ∧
      execDrw x y n s = .next (s.raised .drawOutOfRange)) ∨
    (0 < n.toNat ∧ ¬(s.cfg.drawEdge = .fault ∧ BeyondGrid (s.readV x).toNat (s.readV y).toNat n.toNat) ∧
      memSize < s.I.toNat + n.toNat ∧ execDrw x y n s = .next (s.raised .memOutOfRange)) ∨
    ((0 < n.toNat → ¬(s.cfg.drawEdge = .fault ∧ BeyondGrid (s.readV x).toNat (s.readV y).toNat n.toNat) ∧
      s.I.toNat + n.toNat ≤ memSize) ∧ execDrw x y n s = .next (s.drewState x y n)) := by
  by_cases hn : 0 < n.toNat
  · by_cases hg : s.cfg.drawEdge = .fault ∧ BeyondGrid (s.readV x).toNat (s.readV y).toNat n.toNat
    · refine .inl ⟨hn, hg.1, hg.2, ?_⟩
      have := (offGrid_iff hn).2 hg.2
      simp [execDrw, hn, hg.1, this, raise]
    · have hg' : ¬(0 < n.toNat ∧ s.cfg.drawEdge = .fault ∧ offGrid (s.readV x).toNat (s.readV y).toNat n.toNat = true) := by
        rintro ⟨-, h1, h2⟩
        exact hg ⟨h1, (offGrid_iff hn).1 h2⟩
      by_cases hm : memSize < s.I.toNat + n.toNat
      · refine .inr (.inl ⟨hn, hg, hm, ?_⟩)
        simp only [execDrw, if_neg hg', State.checked_of_out hn hm, raise]
      · refine .inr (.inr ⟨fun _ => ⟨hg, by omega⟩, ?_⟩)
        simp only [execDrw, if_neg hg', State.checked_of_in (Nat.not_lt.1 hm)]
        rfl
  · refine .inr (.inr ⟨fun h => absurd h hn, ?_⟩)
    have h0 : n.toNat = 0 := by omega
    simp only [execDrw, State.drewState, h0, Nat.lt_irrefl, false_and, if_false, State.checked_zero, done]

end Sys2Proof.Machine
end

