-- ==== Sys2Proof/Laws/Encoding.lean ====
section
/-!
SUPPORT. The fields of a word built by one of the formats of R61, a word rebuilt from its fields, and the two bytes of a word.
-/

namespace Sys2Proof

/-! ## The fields of the formats -/

@[simp] theorem fieldF_formatA (f : Nibble) (nnn : Addr12) : fieldF (formatA f nnn) = f := by
  apply BitVec.eq_of_getLsbD_eq
  intro i hi
  simp only [fieldF, formatA, BitVec.getLsbD_extractLsb', BitVec.getLsbD_append]
  interval_cases i <;> simp

@[simp] theorem fieldNNN_formatA (f : Nibble) (nnn : Addr12) : fieldNNN (formatA f nnn) = nnn := by
  apply BitVec.eq_of_getLsbD_eq
  intro i hi
  simp only [fieldNNN, formatA, BitVec.getLsbD_extractLsb', BitVec.getLsbD_append]
  interval_cases i <;> simp

@[simp] theorem fieldF_formatXI (f : Nibble) (x : Reg) (nn : Byte) : fieldF (formatXI f x nn) = f := by
  apply BitVec.eq_of_getLsbD_eq
  intro i hi
  simp only [fieldF, formatXI, BitVec.getLsbD_extractLsb', BitVec.getLsbD_append]
  interval_cases i <;> simp

@[simp] theorem fieldX_formatXI (f : Nibble) (x : Reg) (nn : Byte) : fieldX (formatXI f x nn) = x := by
  apply BitVec.eq_of_getLsbD_eq
  intro i hi
  simp only [fieldX, formatXI, BitVec.getLsbD_extractLsb', BitVec.getLsbD_append]
  interval_cases i <;> simp

@[simp] theorem fieldNN_formatXI (f : Nibble) (x : Reg) (nn : Byte) : fieldNN (formatXI f x nn) = nn := by
  apply BitVec.eq_of_getLsbD_eq
  intro i hi
  simp only [fieldNN, formatXI, BitVec.getLsbD_extractLsb', BitVec.getLsbD_append]
  interval_cases i <;> simp

@[simp] theorem fieldF_formatXYN (f : Nibble) (x y : Reg) (n : Nibble) : fieldF (formatXYN f x y n) = f := by
  apply BitVec.eq_of_getLsbD_eq
  intro i hi
  simp only [fieldF, formatXYN, BitVec.getLsbD_extractLsb', BitVec.getLsbD_append]
  interval_cases i <;> simp

@[simp] theorem fieldX_formatXYN (f : Nibble) (x y : Reg) (n : Nibble) : fieldX (formatXYN f x y n) = x := by
  apply BitVec.eq_of_getLsbD_eq
  intro i hi
  simp only [fieldX, formatXYN, BitVec.getLsbD_extractLsb', BitVec.getLsbD_append]
  interval_cases i <;> simp

@[simp] theorem fieldY_formatXYN (f : Nibble) (x y : Reg) (n : Nibble) : fieldY (formatXYN f x y n) = y := by
  apply BitVec.eq_of_getLsbD_eq
  intro i hi
  simp only [fieldY, formatXYN, BitVec.getLsbD_extractLsb', BitVec.getLsbD_append]
  interval_cases i <;> simp

@[simp] theorem fieldN_formatXYN (f : Nibble) (x y : Reg) (n : Nibble) : fieldN (formatXYN f x y n) = n := by
  apply BitVec.eq_of_getLsbD_eq
  intro i hi
  simp only [fieldN, formatXYN, BitVec.getLsbD_extractLsb', BitVec.getLsbD_append]
  interval_cases i <;> simp

/-! ## A word rebuilt from its fields -/

theorem formatA_fields (op : Word) : formatA (fieldF op) (fieldNNN op) = op := by
  apply BitVec.eq_of_getLsbD_eq
  intro i hi
  simp only [formatA, fieldF, fieldNNN, BitVec.getLsbD_extractLsb', BitVec.getLsbD_append]
  interval_cases i <;> simp

theorem formatXI_fields (op : Word) : formatXI (fieldF op) (fieldX op) (fieldNN op) = op := by
  apply BitVec.eq_of_getLsbD_eq
  intro i hi
  simp only [formatXI, fieldF, fieldX, fieldNN, BitVec.getLsbD_extractLsb', BitVec.getLsbD_append]
  interval_cases i <;> simp

theorem formatXYN_fields (op : Word) : formatXYN (fieldF op) (fieldX op) (fieldY op) (fieldN op) = op := by
  apply BitVec.eq_of_getLsbD_eq
  intro i hi
  simp only [formatXYN, fieldF, fieldX, fieldY, fieldN, BitVec.getLsbD_extractLsb', BitVec.getLsbD_append]
  interval_cases i <;> simp

/-! ## The bytes of a word (R46) -/

theorem wordOfBytes_bytesOfWord (op : Word) : wordOfBytes (op.extractLsb' 8 8) (op.extractLsb' 0 8) = op := by
  apply BitVec.eq_of_getLsbD_eq
  intro i hi
  simp only [wordOfBytes, BitVec.getLsbD_extractLsb', BitVec.getLsbD_append]
  interval_cases i <;> simp

/-- Decoding the two bytes of a word is decoding the word. -/
theorem decode_bytesOfWord (op : Word) (rest : List Byte) :
    decode (bytesOfWord op ++ rest) =
      match decodeWord op with
      | some i => .instr i rest
      | none => .unrecognized op := by
  cases h : decodeWord op <;> simp [bytesOfWord, decode, wordOfBytes_bytesOfWord, h]

theorem decodeTableWord_eq (nbits w : Nat) : decodeTableWord nbits w = decodeWord (BitVec.ofNat 16 (w % 2 ^ nbits)) := by
  have h := decode_bytesOfWord (BitVec.ofNat 16 (w % 2 ^ nbits)) []
  rw [List.append_nil] at h
  simp only [decodeTableWord, tableBytes, h]
  cases decodeWord (BitVec.ofNat 16 (w % 2 ^ nbits)) <;> rfl

end Sys2Proof
end

