-- ==== Sys2Proof/Laws/HostOps.lean ====
section
/-!
SUPPORT. The host operations: one lemma per field per update, and what each operation can answer.
-/

namespace Sys2Proof.Machine

/-! ## `ticked` -/

@[simp] theorem State.ticked_V (s : State) : s.ticked.V = s.V := rfl
@[simp] theorem State.ticked_I (s : State) : s.ticked.I = s.I := rfl
@[simp] theorem State.ticked_pc (s : State) : s.ticked.pc = s.pc := rfl
@[simp] theorem State.ticked_sp (s : State) : s.ticked.sp = s.sp := rfl
@[simp] theorem State.ticked_stack (s : State) : s.ticked.stack = s.stack := rfl
@[simp] theorem State.ticked_DT (s : State) : s.ticked.DT = countDown s.DT := rfl
@[simp] theorem State.ticked_ST (s : State) : s.ticked.ST = countDown s.ST := rfl
@[simp] theorem State.ticked_key (s : State) : s.ticked.key = s.key := rfl
@[simp] theorem State.ticked_fb (s : State) : s.ticked.fb = s.fb := rfl
@[simp] theorem State.ticked_mem (s : State) : s.ticked.mem = s.mem := rfl
@[simp] theorem State.ticked_opcode (s : State) : s.ticked.opcode = s.opcode := rfl
@[simp] theorem State.ticked_init (s : State) : s.ticked.init = s.init := rfl
@[simp] theorem State.ticked_fault (s : State) : s.ticked.fault = s.fault := rfl
@[simp] theorem State.ticked_unkCount (s : State) : s.ticked.unkCount = s.unkCount := rfl
@[simp] theorem State.ticked_cfg (s : State) : s.ticked.cfg = s.cfg := rfl
@[simp] theorem State.ticked_draws (s : State) : s.ticked.draws = s.draws := rfl
@[simp] theorem State.ticked_readV (s : State) (r : Reg) : s.ticked.readV r = s.readV r := rfl
@[simp] theorem State.ticked_peek (s : State) (a : Nat) : s.ticked.peek a = s.peek a := rfl

/-! ## `setKeys` -/

@[simp] theorem State.setKeys_V (s : State) (k : Vector Bool 16) : (s.setKeys k).V = s.V := rfl
@[simp] theorem State.setKeys_I (s : State) (k : Vector Bool 16) : (s.setKeys k).I = s.I := rfl
@[simp] theorem State.setKeys_pc (s : State) (k : Vector Bool 16) : (s.setKeys k).pc = s.pc := rfl
@[simp] theorem State.setKeys_sp (s : State) (k : Vector Bool 16) : (s.setKeys k).sp = s.sp := rfl
@[simp] theorem State.setKeys_stack (s : State) (k : Vector Bool 16) : (s.setKeys k).stack = s.stack := rfl
@[simp] theorem State.setKeys_DT (s : State) (k : Vector Bool 16) : (s.setKeys k).DT = s.DT := rfl
@[simp] theorem State.setKeys_ST (s : State) (k : Vector Bool 16) : (s.setKeys k).ST = s.ST := rfl
@[simp] theorem State.setKeys_key (s : State) (k : Vector Bool 16) : (s.setKeys k).key = k := rfl
@[simp] theorem State.setKeys_fb (s : State) (k : Vector Bool 16) : (s.setKeys k).fb = s.fb := rfl
@[simp] theorem State.setKeys_mem (s : State) (k : Vector Bool 16) : (s.setKeys k).mem = s.mem := rfl
@[simp] theorem State.setKeys_opcode (s : State) (k : Vector Bool 16) : (s.setKeys k).opcode = s.opcode := rfl
@[simp] theorem State.setKeys_init (s : State) (k : Vector Bool 16) : (s.setKeys k).init = s.init := rfl
@[simp] theorem State.setKeys_fault (s : State) (k : Vector Bool 16) : (s.setKeys k).fault = s.fault := rfl
@[simp] theorem State.setKeys_unkCount (s : State) (k : Vector Bool 16) : (s.setKeys k).unkCount = s.unkCount := rfl
@[simp] theorem State.setKeys_cfg (s : State) (k : Vector Bool 16) : (s.setKeys k).cfg = s.cfg := rfl
@[simp] theorem State.setKeys_draws (s : State) (k : Vector Bool 16) : (s.setKeys k).draws = s.draws := rfl
@[simp] theorem State.setKeys_readV (s : State) (k : Vector Bool 16) (r : Reg) : (s.setKeys k).readV r = s.readV r := rfl
@[simp] theorem State.setKeys_peek (s : State) (k : Vector Bool 16) (a : Nat) : (s.setKeys k).peek a = s.peek a := rfl

@[simp] theorem State.pokeList_readV (s : State) (a : Nat) (bs : List Byte) (r : Reg) :
    (s.pokeList a bs).readV r = s.readV r := by simp only [State.readV, State.pokeList_V]

/-- A timer counted down, as a number. -/
theorem countDown_toNat (b : Byte) : (countDown b).toNat = b.toNat - 1 := by
  unfold countDown
  split
  · subst b; rfl
  · rename_i h
    have h0 : b.toNat ≠ 0 := fun e => h (BitVec.toNat_inj.1 (by simpa using e))
    have := b.isLt
    rw [BitVec.toNat_sub]
    have h1 : (1 : Byte).toNat = 1 := rfl
    omega

/-! ## What an operation answers -/

theorem State.afterReset_of_init {s : State} (h : s.init = true) (r : Result) : s.afterReset r = r := by
  simp [State.afterReset, h]

theorem State.afterReset_of_not_init {s : State} (h : s.init = false) (r : Result) : s.afterReset r = .refused .notReset := by
  simp [State.afterReset, h]

/-- Every next state of an operation other than a step. -/
theorem HostOp.run_next {o : HostOp} {s t : State} (h : o.run s = .next t) (hs : o ≠ .step) :
    (o = .reset ∧ t = hostReset s) ∨
    (∃ bytes, o = .load bytes ∧ s.init = true ∧ bytes.length ≤ maxProgram ∧ t = s.pokeList 0x200 bytes) ∨
    (o = .tick ∧ s.init = true ∧ t = s.ticked) ∨
    (∃ k, o = .setKeys k ∧ s.init = true ∧ t = s.setKeys k) := by
  cases o with
  | reset => exact .inl ⟨rfl, (Host.Outcome.next.inj h).symm⟩
  | step => exact absurd rfl hs
  | load bytes =>
    by_cases hi : s.init = false
    · simp [HostOp.run, hostLoad, State.afterReset, hi] at h
    · have hi : s.init = true := by simpa using hi
      by_cases hb : bytes.length ≤ maxProgram
      · simp only [HostOp.run, hostLoad, State.afterReset_of_init hi, imageWf, hb, decide_true, if_true,
          Host.Outcome.next.injEq] at h
        exact .inr (.inl ⟨bytes, rfl, hi, hb, h.symm⟩)
      · simp [HostOp.run, hostLoad, State.afterReset_of_init hi, imageWf, hb] at h
  | tick =>
    by_cases hi : s.init = false
    · simp [HostOp.run, hostTick, State.afterReset, hi] at h
    · have hi : s.init = true := by simpa using hi
      simp only [HostOp.run, hostTick, State.afterReset_of_init hi, Host.Outcome.next.injEq] at h
      exact .inr (.inr (.inl ⟨rfl, hi, h.symm⟩))
  | setKeys k =>
    by_cases hi : s.init = false
    · simp [HostOp.run, hostSetKeys, State.afterReset, hi] at h
    · have hi : s.init = true := by simpa using hi
      simp only [HostOp.run, hostSetKeys, State.afterReset_of_init hi, Host.Outcome.next.injEq] at h
      exact .inr (.inr (.inr ⟨k, rfl, hi, h.symm⟩))

end Sys2Proof.Machine
end

