-- ==== Sys2Proof/Laws/PerInstr.lean ====
section
/-!
SUPPORT. The family `TableRow`, one lemma per instruction: the word the encoder gives an instruction matches that instruction's own row
of the opcode table, that is its mask and match (R61, R64), and the row is one of the table's 34.
-/

namespace Sys2Proof.Laws.TableRow

/-- The encoding of `i` has every fixed digit of the pattern of `i`, and that pattern is a row of the table. -/
def Statement (i : Instr) : Prop := encode i &&& i.row.mask = i.row.value ∧ i.row ∈ opcodeTable

theorem formatA_mask (f : Nibble) (nnn : Addr12) : formatA f nnn &&& 0xF000#16 = formatA f 0 := by
  apply BitVec.eq_of_getLsbD_eq
  intro i hi
  simp only [formatA, BitVec.getLsbD_and, BitVec.getLsbD_append]
  interval_cases i <;> simp

theorem formatXI_mask (f : Nibble) (x : Reg) (nn : Byte) : formatXI f x nn &&& 0xF000#16 = formatXI f 0 0 := by
  apply BitVec.eq_of_getLsbD_eq
  intro i hi
  simp only [formatXI, BitVec.getLsbD_and, BitVec.getLsbD_append]
  interval_cases i <;> simp

theorem formatXI_maskX (f : Nibble) (x : Reg) (nn : Byte) : formatXI f x nn &&& 0xF0FF#16 = formatXI f 0 nn := by
  apply BitVec.eq_of_getLsbD_eq
  intro i hi
  simp only [formatXI, BitVec.getLsbD_and, BitVec.getLsbD_append]
  interval_cases i <;> simp

theorem formatXYN_mask (f : Nibble) (x y : Reg) (n : Nibble) : formatXYN f x y n &&& 0xF00F#16 = formatXYN f 0 0 n := by
  apply BitVec.eq_of_getLsbD_eq
  intro i hi
  simp only [formatXYN, BitVec.getLsbD_and, BitVec.getLsbD_append]
  interval_cases i <;> simp

theorem formatXYN_maskF (f : Nibble) (x y : Reg) (n : Nibble) : formatXYN f x y n &&& 0xF000#16 = formatXYN f 0 0 0 := by
  apply BitVec.eq_of_getLsbD_eq
  intro i hi
  simp only [formatXYN, BitVec.getLsbD_and, BitVec.getLsbD_append]
  interval_cases i <;> simp

theorem cls : Statement .cls := ⟨(by decide), (by decide)⟩
theorem ret : Statement .ret := ⟨(by decide), (by decide)⟩
theorem jp (nnn : Addr12) : Statement (.jp nnn) := ⟨(formatA_mask _ _).trans rfl, (show (Instr.jp 0).row ∈ opcodeTable by decide)⟩
theorem call (nnn : Addr12) : Statement (.call nnn) := ⟨(formatA_mask _ _).trans rfl, (show (Instr.call 0).row ∈ opcodeTable by decide)⟩
theorem seVxNn (x : Reg) (nn : Byte) : Statement (.seVxNn x nn) := ⟨(formatXI_mask _ _ _).trans rfl, (show (Instr.seVxNn 0 0).row ∈ opcodeTable by decide)⟩
theorem sneVxNn (x : Reg) (nn : Byte) : Statement (.sneVxNn x nn) := ⟨(formatXI_mask _ _ _).trans rfl, (show (Instr.sneVxNn 0 0).row ∈ opcodeTable by decide)⟩
theorem seVxVy (x : Reg) (y : Reg) : Statement (.seVxVy x y) := ⟨(formatXYN_mask _ _ _ _).trans rfl, (show (Instr.seVxVy 0 0).row ∈ opcodeTable by decide)⟩
theorem ldVxNn (x : Reg) (nn : Byte) : Statement (.ldVxNn x nn) := ⟨(formatXI_mask _ _ _).trans rfl, (show (Instr.ldVxNn 0 0).row ∈ opcodeTable by decide)⟩
theorem addVxNn (x : Reg) (nn : Byte) : Statement (.addVxNn x nn) := ⟨(formatXI_mask _ _ _).trans rfl, (show (Instr.addVxNn 0 0).row ∈ opcodeTable by decide)⟩
theorem ldVxVy (x : Reg) (y : Reg) : Statement (.ldVxVy x y) := ⟨(formatXYN_mask _ _ _ _).trans rfl, (show (Instr.ldVxVy 0 0).row ∈ opcodeTable by decide)⟩
theorem orVxVy (x : Reg) (y : Reg) : Statement (.orVxVy x y) := ⟨(formatXYN_mask _ _ _ _).trans rfl, (show (Instr.orVxVy 0 0).row ∈ opcodeTable by decide)⟩
theorem andVxVy (x : Reg) (y : Reg) : Statement (.andVxVy x y) := ⟨(formatXYN_mask _ _ _ _).trans rfl, (show (Instr.andVxVy 0 0).row ∈ opcodeTable by decide)⟩
theorem xorVxVy (x : Reg) (y : Reg) : Statement (.xorVxVy x y) := ⟨(formatXYN_mask _ _ _ _).trans rfl, (show (Instr.xorVxVy 0 0).row ∈ opcodeTable by decide)⟩
theorem addVxVy (x : Reg) (y : Reg) : Statement (.addVxVy x y) := ⟨(formatXYN_mask _ _ _ _).trans rfl, (show (Instr.addVxVy 0 0).row ∈ opcodeTable by decide)⟩
theorem sub (x : Reg) (y : Reg) : Statement (.sub x y) := ⟨(formatXYN_mask _ _ _ _).trans rfl, (show (Instr.sub 0 0).row ∈ opcodeTable by decide)⟩
theorem shr (x : Reg) (y : Reg) : Statement (.shr x y) := ⟨(formatXYN_mask _ _ _ _).trans rfl, (show (Instr.shr 0 0).row ∈ opcodeTable by decide)⟩
theorem subn (x : Reg) (y : Reg) : Statement (.subn x y) := ⟨(formatXYN_mask _ _ _ _).trans rfl, (show (Instr.subn 0 0).row ∈ opcodeTable by decide)⟩
theorem shl (x : Reg) (y : Reg) : Statement (.shl x y) := ⟨(formatXYN_mask _ _ _ _).trans rfl, (show (Instr.shl 0 0).row ∈ opcodeTable by decide)⟩
theorem sneVxVy (x : Reg) (y : Reg) : Statement (.sneVxVy x y) := ⟨(formatXYN_mask _ _ _ _).trans rfl, (show (Instr.sneVxVy 0 0).row ∈ opcodeTable by decide)⟩
theorem ldINnn (nnn : Addr12) : Statement (.ldINnn nnn) := ⟨(formatA_mask _ _).trans rfl, (show (Instr.ldINnn 0).row ∈ opcodeTable by decide)⟩
theorem jpV0 (nnn : Addr12) : Statement (.jpV0 nnn) := ⟨(formatA_mask _ _).trans rfl, (show (Instr.jpV0 0).row ∈ opcodeTable by decide)⟩
theorem rnd (x : Reg) (nn : Byte) : Statement (.rnd x nn) := ⟨(formatXI_mask _ _ _).trans rfl, (show (Instr.rnd 0 0).row ∈ opcodeTable by decide)⟩
theorem drw (x : Reg) (y : Reg) (n : Nibble) : Statement (.drw x y n) := ⟨(formatXYN_maskF _ _ _ _).trans rfl, (show (Instr.drw 0 0 0).row ∈ opcodeTable by decide)⟩
theorem skp (x : Reg) : Statement (.skp x) := ⟨(formatXI_maskX _ _ _).trans rfl, (show (Instr.skp 0).row ∈ opcodeTable by decide)⟩
theorem sknp (x : Reg) : Statement (.sknp x) := ⟨(formatXI_maskX _ _ _).trans rfl, (show (Instr.sknp 0).row ∈ opcodeTable by decide)⟩
theorem ldVxDt (x : Reg) : Statement (.ldVxDt x) := ⟨(formatXI_maskX _ _ _).trans rfl, (show (Instr.ldVxDt 0).row ∈ opcodeTable by decide)⟩
theorem ldVxK (x : Reg) : Statement (.ldVxK x) := ⟨(formatXI_maskX _ _ _).trans rfl, (show (Instr.ldVxK 0).row ∈ opcodeTable by decide)⟩
theorem ldDtVx (x : Reg) : Statement (.ldDtVx x) := ⟨(formatXI_maskX _ _ _).trans rfl, (show (Instr.ldDtVx 0).row ∈ opcodeTable by decide)⟩
theorem ldStVx (x : Reg) : Statement (.ldStVx x) := ⟨(formatXI_maskX _ _ _).trans rfl, (show (Instr.ldStVx 0).row ∈ opcodeTable by decide)⟩
theorem addIVx (x : Reg) : Statement (.addIVx x) := ⟨(formatXI_maskX _ _ _).trans rfl, (show (Instr.addIVx 0).row ∈ opcodeTable by decide)⟩
theorem ldFVx (x : Reg) : Statement (.ldFVx x) := ⟨(formatXI_maskX _ _ _).trans rfl, (show (Instr.ldFVx 0).row ∈ opcodeTable by decide)⟩
theorem ldBVx (x : Reg) : Statement (.ldBVx x) := ⟨(formatXI_maskX _ _ _).trans rfl, (show (Instr.ldBVx 0).row ∈ opcodeTable by decide)⟩
theorem ldMemVx (x : Reg) : Statement (.ldMemVx x) := ⟨(formatXI_maskX _ _ _).trans rfl, (show (Instr.ldMemVx 0).row ∈ opcodeTable by decide)⟩
theorem ldVxMem (x : Reg) : Statement (.ldVxMem x) := ⟨(formatXI_maskX _ _ _).trans rfl, (show (Instr.ldVxMem 0).row ∈ opcodeTable by decide)⟩

end Sys2Proof.Laws.TableRow
end

