-- ==== Sys2Proof/Tests/Slice0.lean ====
section
/-!
SUPPORT. The model's own tests. Expected values are those of `spec/95_test_vectors.md` (its T and section numbers stand beside each
test) and of the patterns of `30_encoding.md` R64, never the model's own answers; then one witness per statement that has hypotheses.
-/

namespace Sys2Proof.Tests

open Sys2Proof Sys2Proof.Machine

/-! ## Helpers -/

/-- The reset state with the word at `0x200` and some registers set: the start state of a vector of file 95. -/
def start (w : Nat) (regs : List (Reg × Byte)) : State :=
  regs.foldl (fun s r => s.writeV r.1 r.2) (State.reset.withFetchWord 16 w)

/-- One step answers a next state that satisfies `p`. -/
def after (s : State) (p : State → Bool) : Bool :=
  match step s with
  | .next t => p t
  | .refused _ => false

/-- The framebuffer with exactly the listed pixels lit. -/
def lit (ps : List Pixel) : Framebuffer := ps.foldl (fun fb p => fb.put p true) Framebuffer.clear

/-- Consecutive bytes of memory. -/
def bytesAt (s : State) (a n : Nat) : List Byte := (List.range n).map (fun k => s.peek (a + k))

/-- A configuration with one parameter changed. -/
def withEdge (s : State) (e : DrawEdge) : State := { s with cfg := { s.cfg with drawEdge := e } }

def withShift (s : State) (v : ShiftSource) : State := { s with cfg := { s.cfg with shiftSource := v } }

def withAdvance (s : State) (ns : List Nibble) : State := { s with cfg := { s.cfg with unkAdvance := ns } }

/-! ## Well-formedness: each check refuses an ill-formed value -/

theorem test_wf_accepts_default : defaultConfig.wf = true := by decide

theorem test_wf_refuses_width_zero : ({ defaultConfig with unkWidth := 0 } : Config).wf = false := by decide

theorem test_wf_refuses_repeated_family : ({ defaultConfig with unkAdvance := [5, 8, 5] } : Config).wf = false := by decide

/-- T10: 3584 bytes are accepted, 3585 are not. -/
theorem test_wf_image : imageWf (List.replicate 3584 0xAA) = true ∧ imageWf (List.replicate 3585 0x55) = false := by
  unfold imageWf
  rw [List.length_replicate, List.length_replicate]
  decide

/-! ## Decoding: words written out from the patterns of R64 -/

theorem test_decode_system : decodeWord 0x00E0 = some .cls ∧ decodeWord 0x00EE = some .ret := by decide

theorem test_decode_jumps :
    decodeWord 0x1ABC = some (.jp 0xABC) ∧ decodeWord 0x2208 = some (.call 0x208) ∧ decodeWord 0xBFFF = some (.jpV0 0xFFF) := by
  decide

theorem test_decode_skips :
    decodeWord 0x3100 = some (.seVxNn 1 0x00) ∧ decodeWord 0x4311 = some (.sneVxNn 3 0x11) ∧
    decodeWord 0x5290 = some (.seVxVy 2 9) ∧ decodeWord 0x9290 = some (.sneVxVy 2 9) := by decide

theorem test_decode_immediates :
    decodeWord 0x6A05 = some (.ldVxNn 10 0x05) ∧ decodeWord 0x71FF = some (.addVxNn 1 0xFF) ∧
    decodeWord 0xC30F = some (.rnd 3 0x0F) := by decide

theorem test_decode_alu :
    decodeWord 0x8230 = some (.ldVxVy 2 3) ∧ decodeWord 0x8121 = some (.orVxVy 1 2) ∧ decodeWord 0x8342 = some (.andVxVy 3 4) ∧
    decodeWord 0x8563 = some (.xorVxVy 5 6) ∧ decodeWord 0x8014 = some (.addVxVy 0 1) ∧ decodeWord 0x8785 = some (.sub 7 8) ∧
    decodeWord 0x8236 = some (.shr 2 3) ∧ decodeWord 0x89A7 = some (.subn 9 10) ∧ decodeWord 0x820E = some (.shl 2 0) := by decide

theorem test_decode_index :
    decodeWord 0xA300 = some (.ldINnn 0x300) ∧ decodeWord 0xF21E = some (.addIVx 2) ∧ decodeWord 0xF429 = some (.ldFVx 4) ∧
    decodeWord 0xF033 = some (.ldBVx 0) ∧ decodeWord 0xFE55 = some (.ldMemVx 14) ∧ decodeWord 0xF265 = some (.ldVxMem 2) := by decide

theorem test_decode_display : decodeWord 0xD125 = some (.drw 1 2 5) := by decide

theorem test_decode_keys_and_timers :
    decodeWord 0xE59E = some (.skp 5) ∧ decodeWord 0xE6A1 = some (.sknp 6) ∧ decodeWord 0xF60A = some (.ldVxK 6) ∧
    decodeWord 0xF307 = some (.ldVxDt 3) ∧ decodeWord 0xF015 = some (.ldDtVx 0) ∧ decodeWord 0xF118 = some (.ldStVx 1) := by decide

/-- 2.6: words that are no instruction. -/
theorem test_decode_unrecognized :
    [0x0000, 0x00E1, 0x0123, 0x5121, 0x8018, 0x9AB1, 0xE09F, 0xF075, 0xF256].all (fun w => (decodeWord w).isNone) = true := by
  decide

/-- The host's numbering: bit 0 is the least significant bit of the one 16-bit word, stored big-endian (R46). -/
theorem test_decode_table_word : decodeTableWord 16 0xD125 = some (.drw 1 2 5) ∧ tableBytes 16 0xD125 = [0xD1, 0x25] := by decide

/-- The word the host places is the one the next step fetches and runs. -/
theorem test_withFetchWord_places_at_pc :
    (State.reset.withFetchWord 16 0x6A05).fetch16 = some 0x6A05 ∧ bytesAt (State.reset.withFetchWord 16 0x6A05) 0x200 2 = [0x6A, 0x05] := by
  decide

/-! ## Control transfer (2.1) -/

theorem test_ret : after { start 0x00EE [] with sp := 1, stack := State.reset.stack.set 0 0x0204 }
    (fun t => t.sp = 0 ∧ t.pc = 0x0206 ∧ t.stack[0] = 0x0204) = true := by decide

theorem test_jp : after (start 0x1ABC []) (fun t => t.pc = 0x0ABC) = true := by decide

theorem test_jp_odd : after (start 0x1201 []) (fun t => t.pc = 0x0201) = true := by decide

theorem test_call : after (start 0x2300 []) (fun t => t.stack[0] = 0x0200 ∧ t.sp = 1 ∧ t.pc = 0x0300) = true := by decide

theorem test_jpV0 : after (start 0xB300 [(0, 0), (3, 0x55)]) (fun t => t.pc = 0x0300) = true := by decide

theorem test_jpV0_beyond_memory : after (start 0xBFFF [(0, 0xFF)]) (fun t => t.pc = 0x10FE) = true := by decide

theorem test_seVxNn_taken : after (start 0x3100 []) (fun t => t.pc = 0x0204) = true := by decide

theorem test_seVxNn_not_taken : after (start 0x3100 [(1, 1)]) (fun t => t.pc = 0x0202) = true := by decide

theorem test_sneVxNn_taken : after (start 0x4100 [(1, 1)]) (fun t => t.pc = 0x0204) = true := by decide

theorem test_sneVxNn_not_taken : after (start 0x4100 []) (fun t => t.pc = 0x0202) = true := by decide

theorem test_seVxVy_taken : after (start 0x5290 [(2, 7), (9, 7)]) (fun t => t.pc = 0x0204) = true := by decide

theorem test_seVxVy_not_taken : after (start 0x5290 [(2, 7), (9, 8)]) (fun t => t.pc = 0x0202) = true := by decide

theorem test_sneVxVy_taken : after (start 0x9290 [(2, 7), (9, 8)]) (fun t => t.pc = 0x0204) = true := by decide

theorem test_sneVxVy_not_taken : after (start 0x9290 [(2, 7), (9, 7)]) (fun t => t.pc = 0x0202) = true := by decide

/-! ## Registers (2.2, T1 to T3) -/

theorem test_ldVxNn : after (start 0x6A05 []) (fun t => t.readV 10 = 5 ∧ t.pc = 0x0202 ∧ t.opcode = 0x6A05) = true := by decide

theorem test_addVxNn_wraps : after (start 0x71FF [(1, 5), (VF, 9)]) (fun t => t.readV 1 = 4 ∧ t.readV VF = 9) = true := by decide

theorem test_ldVxVy : after (start 0x8230 [(3, 0x7E)]) (fun t => t.readV 2 = 0x7E ∧ t.readV 3 = 0x7E) = true := by decide

theorem test_orVxVy : after (start 0x8011 [(0, 0x0F), (1, 0xF1), (VF, 1)]) (fun t => t.readV 0 = 0xFF ∧ t.readV VF = 1) = true := by
  decide

theorem test_andVxVy : after (start 0x8012 [(0, 0x3C), (1, 0x0F)]) (fun t => t.readV 0 = 0x0C) = true := by decide

theorem test_xorVxVy : after (start 0x8013 [(0, 0xFF), (1, 0x0F)]) (fun t => t.readV 0 = 0xF0) = true := by decide

theorem test_addVxVy_carry : after (start 0x8014 [(0, 0x80), (1, 0x80)]) (fun t => t.readV 0 = 0 ∧ t.readV VF = 1) = true := by decide

theorem test_addVxVy_flag_operand : after (start 0x81F4 [(1, 0x01), (VF, 0xFF)]) (fun t => t.readV VF = 1 ∧ t.readV 1 = 2) = true := by
  decide

theorem test_sub_borrow : after (start 0x8015 [(0, 3), (1, 8)]) (fun t => t.readV 0 = 0xFB ∧ t.readV VF = 0) = true := by decide

theorem test_sub_equal : after (start 0x8015 [(0, 7), (1, 7)]) (fun t => t.readV 0 = 0 ∧ t.readV VF = 1) = true := by decide

theorem test_subn : after (start 0x8017 [(0, 3), (1, 8)]) (fun t => t.readV 0 = 5 ∧ t.readV VF = 1) = true := by decide

theorem test_subn_flag_destination : after (start 0x8F17 [(VF, 0x05), (1, 0x03)]) (fun t => t.readV VF = 3) = true := by decide

theorem test_shr : after (start 0x8236 [(2, 5), (3, 0xAA)]) (fun t => t.readV 2 = 2 ∧ t.readV VF = 1 ∧ t.readV 3 = 0xAA) = true := by
  decide

theorem test_shl : after (start 0x820E [(2, 0x81)]) (fun t => t.readV 2 = 2 ∧ t.readV VF = 1) = true := by decide

theorem test_config_shr_vy : after (withShift (start 0x8F16 [(VF, 0xFF), (1, 0x55)]) .vy)
    (fun t => t.readV VF = 0x2A ∧ t.readV 1 = 0x55) = true := by decide

theorem test_config_shl_vy : after (withShift (start 0x823E [(3, 0xC1)]) .vy)
    (fun t => t.readV 2 = 0x82 ∧ t.readV VF = 1 ∧ t.readV 3 = 0xC1) = true := by decide

/-- `C3FF`, `rnd = r`: `V[3] = r`, for the free byte of that draw. -/
theorem test_rnd : ∃ t, step (start 0xC3FF []) = .next t ∧ t.readV 3 = Config.randomByte 0 &&& 0xFF ∧ t.draws = 1 ∧ t.pc = 0x0202 :=
  ⟨_, rfl, rfl, rfl, rfl⟩

/-! ## Index and memory (2.3, T6, T7) -/

theorem test_ldINnn : after { start 0xA300 [] with I := 0xFFFF } (fun t => t.I = 0x0300) = true := by decide

theorem test_addIVx_flag : after { start 0xF21E [(2, 0x10)] with I := 0x0FF0 } (fun t => t.I = 0x1000 ∧ t.readV VF = 1) = true := by
  decide

theorem test_addIVx_flag_operand : after { start 0xFF1E [(VF, 0x01)] with I := 0x0FFE }
    (fun t => t.I = 0x0FFE ∧ t.readV VF = 0) = true := by decide

theorem test_ldFVx : after (start 0xF429 [(4, 0x0A)]) (fun t => t.I = 0x0032) = true := by decide

theorem test_ldFVx_not_masked : after (start 0xF429 [(4, 0xFF)]) (fun t => t.I = 0x04FB) = true := by decide

theorem test_ldBVx : after { start 0xF033 [(0, 234)] with I := 0x0300 } (fun t => bytesAt t 0x300 3 = [2, 3, 4] ∧ t.I = 0x0300) = true := by
  decide

theorem test_ldBVx_last_address : after { start 0xF033 [(0, 0xFF)] with I := 0x0FFD } (fun t => bytesAt t 0xFFD 3 = [2, 5, 5]) = true := by
  decide

theorem test_ldMemVx : after { start 0xF255 [(0, 0x11), (1, 0x22), (2, 0x33), (3, 0x44)] with I := 0x0400 }
    (fun t => bytesAt t 0x400 4 = [0x11, 0x22, 0x33, 0] ∧ t.I = 0x0400) = true := by decide

/-- The store overwrites its own first byte: the next fetch sees `0x1255` (`20_memory.md` R56). -/
theorem test_ldMemVx_code : after { start 0xF055 [(0, 0x12)] with I := 0x0200, pc := 0x0200 }
    (fun t => { t with pc := 0x0200 }.fetch16 = some 0x1255) = true := by decide

theorem test_ldVxMem : after (start 0xF165 [(2, 9)]) (fun t => t.readV 0 = 0xF0 ∧ t.readV 1 = 0x90 ∧ t.readV 2 = 9) = true := by decide

/-! ## Display (2.4, T4) -/

theorem test_cls : after { start 0x00E0 [(VF, 1)] with fb := lit [(0, 0), (63, 31), (10, 5)] }
    (fun t => t.fb = lit [] ∧ t.readV VF = 1 ∧ t.pc = 0x0202) = true := by decide

/-- A partial collision. -/
theorem test_drw_collision :
    after { (start 0xD011 []).poke 0x210 0xF0 with I := 0x0210, fb := lit [(2, 0)] }
      (fun t => t.fb = lit [(0, 0), (1, 0), (3, 0)] ∧ t.readV VF = 1) = true := by decide

/-- Glyph `A` at column 5, row 3, and the flag cleared. -/
theorem test_drw_glyph : after { start 0xD125 [(1, 5), (2, 3), (VF, 7)] with I := 0x0032 }
    (fun t => t.fb = lit [(5, 3), (6, 3), (7, 3), (8, 3), (5, 4), (8, 4), (5, 5), (6, 5), (7, 5), (8, 5), (5, 6), (8, 6), (5, 7), (8, 7)] ∧
      t.readV VF = 0) = true := by decide

/-- Program P5, step 4. -/
theorem test_config_wrap :
    after { ((start 0xD122 [(1, 62), (2, 31)]).poke 0x20A 0xFF).poke 0x20B 0x81 with I := 0x020A }
      (fun t => t.fb = lit [(62, 31), (63, 31), (0, 31), (1, 31), (2, 31), (3, 31), (4, 31), (5, 31), (62, 0), (5, 0)] ∧
        t.readV VF = 0) = true := by decide

theorem test_config_clip :
    after (withEdge { ((start 0xD122 [(1, 62), (2, 31)]).poke 0x20A 0xFF).poke 0x20B 0x81 with I := 0x020A } .clip)
      (fun t => t.fb = lit [(62, 31), (63, 31)] ∧ t.readV VF = 0) = true := by decide

/-! ## Keypad and timers (2.5) -/

theorem test_skp : after { start 0xE59E [(5, 10)] with key := State.reset.key.set 10 true } (fun t => t.pc = 0x0204) = true := by decide

theorem test_sknp : after { start 0xE5A1 [(5, 10)] with key := State.reset.key.set 10 true } (fun t => t.pc = 0x0202) = true := by
  decide

theorem test_ldVxK_lowest : after { start 0xF60A [] with key := (State.reset.key.set 3 true).set 7 true }
    (fun t => t.readV 6 = 3 ∧ t.pc = 0x0202) = true := by decide

theorem test_ldVxK_waits : after (start 0xF60A [(6, 5)]) (fun t => t.pc = 0x0200 ∧ t.readV 6 = 5 ∧ t.unkCount = 0) = true := by decide

theorem test_ldVxDt : after { start 0xF307 [] with DT := 0x2A } (fun t => t.readV 3 = 0x2A ∧ t.DT = 0x2A) = true := by decide

theorem test_ldDtVx : after (start 0xF015 [(0, 0x3C)]) (fun t => t.DT = 0x3C) = true := by decide

theorem test_ldStVx : after (start 0xF118 [(1, 5)]) (fun t => t.ST = 5 ∧ t.soundActive = true) = true := by decide

/-! ## Faults, unrecognized words, refusals (2.1, 2.3 to 2.7) -/

theorem test_fault_stackUnderflow :
    after (start 0x00EE []) (fun t => t.faultCode = 2 ∧ t.pc = 0x0200 ∧ t.opcode = 0x00EE ∧ t.sp = 0) = true := by decide

theorem test_fault_stackOverflow : after { start 0x2200 [] with sp := 16 } (fun t => t.faultCode = 1 ∧ t.sp = 16 ∧ t.pc = 0x0200) = true := by
  decide

theorem test_fault_memOutOfRange :
    after { start 0xF155 [(0, 0x77)] with I := 0x0FFF } (fun t => t.faultCode = 3 ∧ t.peek 0xFFF = 0 ∧ t.pc = 0x0200) = true := by decide

theorem test_fault_fetchOutOfRange : after { State.reset with pc := 0x0FFF, opcode := 0x1FFF }
    (fun t => t.faultCode = 4 ∧ t.opcode = 0x1FFF ∧ t.pc = 0x0FFF) = true := by decide

theorem test_fault_keyIndexOutOfRange : after (start 0xE09E [(0, 0x10)]) (fun t => t.faultCode = 5 ∧ t.pc = 0x0200) = true := by decide

theorem test_fault_drawOutOfRange : after (withEdge (start 0xD015 [(0, 57), (1, 27)]) .fault)
    (fun t => t.faultCode = 6 ∧ t.fb = lit [] ∧ t.pc = 0x0200) = true := by decide

/-- The info values of the vectors: the last address `0x1002`, the key index, the pc; and the cycle counts. -/
theorem test_report_info :
    report { start 0xF033 [(0, 5)] with I := 0x1000 } = .faulted .memOutOfRange (some 0x1002) ∧
    report (start 0xE0A1 [(0, 0xFF)]) = .faulted .keyIndexOutOfRange (some 0xFF) ∧
    cycles (report (start 0x6A05 [])) = 1 ∧ cycles (report { State.reset with fault := some .stackOverflow }) = 0 := by decide

theorem test_unrecognized_stalls : after State.reset (fun t => t.unkCount = 1 ∧ t.pc = 0x0200 ∧ t.opcode = 0) = true ∧
    report State.reset = .unrecognized 0 := by decide

theorem test_unrecognized_saturates : after { State.reset with unkCount := 65535 } (fun t => t.unkCount = 65535) = true := by decide

theorem test_config_unk_advance : after (withAdvance (start 0x5121 []) [5]) (fun t => t.unkCount = 1 ∧ t.pc = 0x0202) = true := by decide

theorem test_step_refused_halted : step { State.reset with fault := some .stackUnderflow } = .refused .halted := rfl

theorem test_step_refused_notReset : step { State.reset with init := false } = .refused .notReset := rfl

/-! ## Host operations (T8, T10, 2.7) -/

theorem test_tick : hostTick { State.reset with DT := 0, ST := 2 } = .next { State.reset with DT := 0, ST := 1 } := rfl

theorem test_tick_halted : hostTick { State.reset with DT := 5, fault := some .stackUnderflow } =
    .next { State.reset with DT := 4, fault := some .stackUnderflow } := rfl

theorem test_load : hostLoad [0x60, 0x05] State.reset = .next (State.reset.withFetchWord 16 0x6005) := rfl

theorem test_load_too_large : hostLoad (List.replicate 3585 0x55) State.reset = .refused .romTooLarge := by
  unfold hostLoad
  rw [test_wf_image.2]
  rfl

theorem test_set_keys_then_reset :
    runSchedule [.setKeys (State.reset.key.set 4 true), .reset] State.reset = State.reset := by decide

/-- Writing the byte an unlisted address reads as takes the cell out again: equal memories are equal data (R28; log 23). -/
theorem test_memory_canonical : ((State.reset.poke 0x300 7).poke 0x300 0).mem = [] ∧ (State.reset.poke 0x000 0xF0).mem = [] ∧
    ((State.reset.poke 0x300 7).poke 0x000 0).mem = [(0x000, 0), (0x300, 7)] := by decide

/-! ## Witnesses: concrete states and operands that meet the hypotheses of each statement, clause by clause, at boundary values -/

/-- The reset state with some registers and another I. -/
def regsAndI (regs : List (Reg × Byte)) (i : Word) : State := { start 0x0000 regs with I := i }

/-- The reset state with a stack depth. -/
def depth (n : Fin 17) : State := { State.reset with sp := n }

/-- The reset state halted by a fault. -/
def halted : State := { State.reset with fault := some .stackUnderflow }

/-- A core at power-on. -/
def powerOn : State := { State.reset with init := false }

theorem witness_EncodingADecodedWordGivesTheWordBack : ∃ op i, decodeWord op = some i := ⟨0xD125, .drw 1 2 5, by decide⟩

theorem witness_WordDecodesExactlyWhenItMatchesARow : ∃ (op : Word) (r r' : OpcodeRow), r ∈ opcodeTable ∧ r' ∈ opcodeTable ∧
    op &&& r.mask = r.value ∧ op &&& r'.mask = r'.value :=
  ⟨0x00EE, Instr.ret.row, Instr.ret.row, by decide, by decide, by decide, by decide⟩

theorem witness_StepRunsTheDecodedInstruction : ∃ (s : State) (i : Instr), s.init = true ∧ s.fault = none ∧ s.pc.toNat = 0xFFE ∧
    decode [s.peek s.pc.toNat, s.peek (s.pc.toNat + 1)] = .instr i [] :=
  ⟨{ State.reset with pc := 0x0FFE }.withFetchWord 16 0x6007, .ldVxNn 0 7, by decide, by decide, by decide, by decide⟩

theorem witness_StepIsRefusedExactlyWhenNotResetOrHalted :
    step powerOn = .refused .notReset ∧ step halted = .refused .halted := ⟨rfl, rfl⟩

theorem witness_FetchBeyondMemoryFaults : ∃ s : State, s.init = true ∧ s.fault = none ∧ s.pc.toNat = 0xFFF :=
  ⟨{ State.reset with pc := 0x0FFF }, by decide, by decide, by decide⟩

theorem witness_UnrecognizedWordIsCountedAndStalls : ∃ (s u : State) (op : Word),
    (s.init = true ∧ s.fault = none ∧ s.pc.toNat ≤ 0xFFE ∧ op = s.peek s.pc.toNat ++ s.peek (s.pc.toNat + 1) ∧
      op.extractLsb' 12 4 ∈ s.cfg.unkAdvance) ∧
    (u.init = true ∧ u.fault = none ∧ u.pc.toNat ≤ 0xFFE ∧ op = u.peek u.pc.toNat ++ u.peek (u.pc.toNat + 1) ∧
      op.extractLsb' 12 4 ∉ u.cfg.unkAdvance) ∧ ∀ r ∈ opcodeTable, op &&& r.mask ≠ r.value :=
  ⟨withAdvance (start 0x5121 []) [5], start 0x5121 [], 0x5121, by decide, by decide, by decide⟩

theorem witness_NoInstructionWritesHostOwnedState : ∃ i s t, exec i s = .next t := ⟨.cls, State.reset, _, rfl⟩

theorem witness_OnlyTheListedInstructionsWriteEachElement :
    (∃ t, exec (.ldINnn 0x300) State.reset = .next t ∧ t.I ≠ State.reset.I) ∧
    (∃ t, exec (.call 0x300) (depth 15) = .next t ∧ t.sp ≠ (depth 15).sp ∧ t.stack ≠ (depth 15).stack) ∧
    (∃ t, exec (.ldDtVx 0) (regsAndI [(0, 1)] 0) = .next t ∧ t.DT ≠ 0) ∧
    (∃ t, exec (.ldStVx 0) (regsAndI [(0, 1)] 0) = .next t ∧ t.ST ≠ 0) ∧
    (∃ t, exec (.drw 0 0 1) State.reset = .next t ∧ t.fb ≠ State.reset.fb) ∧
    (∃ t, exec (.ldBVx 0) (regsAndI [(0, 1)] 0x300) = .next t ∧ t.mem ≠ (regsAndI [(0, 1)] 0x300).mem) ∧
    (∃ t, exec (.rnd 0 0) State.reset = .next t ∧ t.draws ≠ State.reset.draws) :=
  ⟨⟨_, rfl, by decide⟩, ⟨_, rfl, by decide⟩, ⟨_, rfl, by decide⟩, ⟨_, rfl, by decide⟩, ⟨_, rfl, by decide⟩, ⟨_, rfl, by decide⟩,
    ⟨_, rfl, by decide⟩⟩

theorem witness_NoInstructionReadsSoundTimerOrDiagnostics :
    (∃ t, exec .cls State.reset = .next t ∧ ∀ x, Instr.cls ≠ .ldStVx x) ∧
    (∃ i t, exec i State.reset = .next t ∧ ∃ x, i = .ldStVx x) := ⟨⟨_, rfl, by decide⟩, ⟨.ldStVx 0, _, rfl, 0, rfl⟩⟩

theorem witness_OnlyControlTransfersLeavePcOtherThanPlusTwo :
    (∃ t, State.reset.fault = none ∧ exec .ret State.reset = .next t ∧ t.fault ≠ none) ∧
    (∃ t, State.reset.fault = none ∧ exec (.jp 0xABC) State.reset = .next t ∧ t.fault = none ∧ t.pc ≠ State.reset.pc + 2) :=
  ⟨⟨_, rfl, rfl, by decide⟩, ⟨_, rfl, rfl, by decide, by decide⟩⟩

theorem witness_EachFaultIsRecordedExactlyOnItsCondition :
    (∃ t, exec (.call 0) (depth 16) = .next t ∧ t.fault = some .stackOverflow) ∧
    (∃ t, exec .ret (depth 0) = .next t ∧ t.fault = some .stackUnderflow) ∧
    (∃ t, exec (.ldBVx 0) (regsAndI [] 0xFFE) = .next t ∧ t.fault = some .memOutOfRange) ∧
    (∃ t, exec (.drw 0 0 2) (regsAndI [] 0xFFF) = .next t ∧ t.fault = some .memOutOfRange) ∧
    (∃ t, exec (.skp 0) (regsAndI [(0, 16)] 0) = .next t ∧ t.fault = some .keyIndexOutOfRange) ∧
    (∃ t, exec (.drw 0 0 1) (withEdge (regsAndI [(0, 57)] 0) .fault) = .next t ∧ t.fault = some .drawOutOfRange) ∧
    (∃ t, exec (.ldBVx 0) (regsAndI [] 0xFFD) = .next t ∧ t.fault = none) :=
  ⟨⟨_, rfl, rfl⟩, ⟨_, rfl, rfl⟩, ⟨_, rfl, rfl⟩, ⟨_, rfl, rfl⟩, ⟨_, rfl, rfl⟩, ⟨_, rfl, rfl⟩, ⟨_, rfl, rfl⟩⟩

theorem witness_FaultingStepChangesOnlyFaultAndOpcode : ∃ s t : State, step s = .next t ∧ t.fault ≠ none :=
  ⟨start 0x00EE [], _, rfl, by decide⟩

theorem witness_ReportCarriesTheFaultInfo :
    (∃ s : State, s.init = true ∧ s.fault = none ∧ s.pc.toNat ≤ 0xFFE ∧ 0xFFF < s.I.toNat + 2 ∧
      decodeWord (s.peek s.pc.toNat ++ s.peek (s.pc.toNat + 1)) = some (.ldBVx 0)) ∧
    (∃ s : State, s.init = true ∧ s.fault = none ∧ s.pc.toNat ≤ 0xFFE ∧ 0xFFF < s.I.toNat + 15 ∧
      decodeWord (s.peek s.pc.toNat ++ s.peek (s.pc.toNat + 1)) = some (.ldMemVx 15)) ∧
    (∃ s : State, s.init = true ∧ s.fault = none ∧ s.pc.toNat ≤ 0xFFE ∧ 0xFFF < s.I.toNat + 2 - 1 ∧ s.cfg.drawEdge = .wrap ∧
      decodeWord (s.peek s.pc.toNat ++ s.peek (s.pc.toNat + 1)) = some (.drw 0 0 2)) ∧
    (∃ s : State, s.init = true ∧ s.fault = none ∧ s.pc.toNat ≤ 0xFFE ∧ 15 < (s.readV 0).toNat ∧
      decodeWord (s.peek s.pc.toNat ++ s.peek (s.pc.toNat + 1)) = some (.skp 0)) ∧
    (∃ s : State, s.init = true ∧ s.fault = none ∧ s.pc.toNat ≤ 0xFFE ∧ s.cfg.drawEdge = .fault ∧
      56 < (s.readV 0).toNat ∧ decodeWord (s.peek s.pc.toNat ++ s.peek (s.pc.toNat + 1)) = some (.drw 0 0 2)) ∧
    (∃ s : State, s.init = true ∧ s.fault = none ∧ s.pc.toNat ≤ 0xFFE ∧ s.sp.val = 0 ∧
      decodeWord (s.peek s.pc.toNat ++ s.peek (s.pc.toNat + 1)) = some .ret) ∧
    (∃ s : State, s.init = true ∧ s.fault = none ∧ s.pc.toNat ≤ 0xFFE ∧ s.sp.val = 16 ∧
      decodeWord (s.peek s.pc.toNat ++ s.peek (s.pc.toNat + 1)) = some (.call 0x300)) :=
  ⟨⟨{ start 0xF033 [] with I := 0x0FFE }, by decide⟩, ⟨{ start 0xFF55 [] with I := 0x0FF1 }, by decide⟩,
    ⟨{ start 0xD002 [] with I := 0x0FFF }, by decide⟩, ⟨start 0xE09E [(0, 16)], by decide⟩,
    ⟨withEdge (start 0xD002 [(0, 57)]) .fault, by decide⟩, ⟨start 0x00EE [], by decide⟩, ⟨{ start 0x2300 [] with sp := 16 }, by decide⟩⟩

/-- A state at the largest pc an instruction can produce satisfies the invariant, and its step answers a next state. -/
theorem witness_EveryStepKeepsInv : ∃ s t : State, s.Inv ∧ step s = .next t :=
  ⟨{ State.reset with pc := 0x10FE }, _, ⟨by decide, by decide, by decide, by decide⟩, rfl⟩

theorem witness_EveryHostScheduleKeepsInv : ∃ s : State, s.Inv := ⟨State.reset, by decide, by decide, by decide, by decide⟩

theorem witness_ReturnPopsAndContinuesAfterTheCall : (depth 1).sp.val = 1 ∧ (depth 16).sp.val = 16 ∧ (depth 0).sp.val = 0 := by decide

theorem witness_CallPushesItsOwnAddress : (depth 15).sp.val < 16 ∧ (depth 16).sp.val = 16 := by decide

theorem witness_ReturnAfterCallContinuesBehindIt : ∃ s t : State, s.sp.val = 15 ∧ exec (.call 0x300) s = .next t ∧ t.sp.val = 16 :=
  ⟨depth 15, _, rfl, rfl, rfl⟩

theorem witness_RegisterSkipsMovePcByFourOrTwo :
    ∃ s : State, s.readV 0 = 7 ∧ s.readV 1 ≠ 7 ∧ s.readV 0 = s.readV 2 ∧ s.readV 0 ≠ s.readV 1 :=
  ⟨regsAndI [(0, 7), (2, 7)] 0, by decide⟩

/-- Sums of 255 and 256; differences of 0 and -1. -/
theorem witness_AddAndSubtractions : ∃ s : State, (s.readV 0).toNat + (s.readV 1).toNat = 255 ∧
    (s.readV 0).toNat + (s.readV 2).toNat = 256 ∧ (s.readV 0).toNat ≥ (s.readV 0).toNat ∧ (s.readV 1).toNat + 1 = (s.readV 2).toNat ∧
    (2 : Reg) ≠ VF := ⟨regsAndI [(0, 128), (1, 127), (2, 128)] 0, by decide⟩

theorem witness_ShiftsWriteTheLostBitThenTheShiftedSource : ∃ (s u : State) (src src' : Reg),
    src = (if s.cfg.shiftSource = .vy then 3 else 2) ∧ src = 2 ∧ (s.readV src).toNat % 2 = 1 ∧
    src' = (if u.cfg.shiftSource = .vy then 3 else 2) ∧ src' = 3 ∧ (u.readV src').toNat / 128 = 1 :=
  ⟨regsAndI [(2, 5)] 0, withShift (regsAndI [(3, 0x80)] 0) .vy, 2, 3, by decide⟩

theorem witness_SelectorFifteenCasesAreAsTabled : ∃ (s : State) (r : Reg), s.cfg.shiftSource = .vx ∧ r ≠ VF ∧
    (s.readV VF).toNat + (s.readV r).toNat = 256 := ⟨regsAndI [(1, 1), (VF, 255)] 0, 1, by decide⟩

theorem witness_AddToIndexWritesTheRangeFlagThenI :
    (∃ s : State, s.I.toNat + (s.readV 2).toNat = 0xFFF) ∧ (∃ s : State, s.I.toNat + (s.readV 2).toNat = 0x1000) :=
  ⟨⟨regsAndI [(2, 0x10)] 0x0FEF, by decide⟩, ⟨regsAndI [(2, 0x10)] 0x0FF0, by decide⟩⟩

theorem witness_DigitsAreStoredHundredsFirst :
    (∃ s : State, s.I.toNat + 2 = 0xFFF) ∧ (∃ s : State, s.I.toNat + 2 = 0x1000) :=
  ⟨⟨regsAndI [] 0x0FFD, by decide⟩, ⟨regsAndI [] 0x0FFE, by decide⟩⟩

/-- For `FX55` and `FX65` alike. -/
theorem witness_StoreAndLoadRegisters :
    (∃ s : State, s.I.toNat + (15 : Reg).toNat = 0xFFF) ∧ (∃ s : State, s.I.toNat + (15 : Reg).toNat = 0x1000) :=
  ⟨⟨regsAndI [] 0x0FF0, by decide⟩, ⟨regsAndI [] 0x0FF1, by decide⟩⟩

theorem witness_LoadAfterStoreGivesTheRegistersBack : ∃ s t u : State, s.I.toNat + (2 : Reg).toNat ≤ 0xFFF ∧
    exec (.ldMemVx 2) s = .next t ∧ u.I = s.I ∧ (∀ a, u.peek a = t.peek a) ∧ u.readV 0 ≠ s.readV 0 :=
  ⟨regsAndI [(0, 1), (1, 2), (2, 3)] 0x0400, _,
    ((((regsAndI [] 0x0400).poke 0x400 1).poke 0x401 2).poke 0x402 3), by decide, rfl, rfl, fun _ => rfl, by decide⟩

/-- `FX55` with X = 1 writes the two last bytes of memory, which are then the next instruction. -/
theorem witness_NextStepRunsTheWordJustStored : ∃ s : State, s.init = true ∧ s.fault = none ∧ 1 ≤ (1 : Reg).toNat ∧ s.I = s.pc + 2 ∧
    s.pc.toNat ≤ 0xFFE ∧ s.I.toNat + (1 : Reg).toNat = 0xFFF ∧
    decodeWord (s.peek s.pc.toNat ++ s.peek (s.pc.toNat + 1)) = some (.ldMemVx 1) ∧
    decodeWord (s.readV 0 ++ s.readV 1) = some (.ldVxNn 10 5) :=
  ⟨{ (regsAndI [(0, 0x6A), (1, 0x05)] 0x0FFE) with pc := 0x0FFC }.withFetchWord 16 0xF155, by decide⟩

theorem witness_ClearScreenZeroesEveryPixel : ∃ s t u : State, exec .cls s = .next t ∧ exec .cls t = .next u ∧ t.fb ≠ s.fb :=
  ⟨{ State.reset with fb := lit [(63, 31)] }, _, _, rfl, rfl, by decide⟩

/-- A word matches each row whose encoding a statement names. -/
theorem witness_WordsDecodeTo : (0x3100 : Word) &&& 0xF000 = 0x3000 ∧ (0x4311 : Word) &&& 0xF000 = 0x4000 ∧
    (0x5290 : Word) &&& 0xF00F = 0x5000 ∧ (0x9290 : Word) &&& 0xF00F = 0x9000 ∧ (0x6A05 : Word) &&& 0xF000 = 0x6000 ∧
    (0x8230 : Word) &&& 0xF00F = 0x8000 ∧ (0x71FF : Word) &&& 0xF000 = 0x7000 ∧ (0xA300 : Word) &&& 0xF000 = 0xA000 ∧
    (0xF429 : Word) &&& 0xF0FF = 0xF029 ∧ (0xF307 : Word) &&& 0xF0FF = 0xF007 ∧ (0xF015 : Word) &&& 0xF0FF = 0xF015 ∧
    (0xF118 : Word) &&& 0xF0FF = 0xF018 := by decide

/-- In `fault` mode at the last position that fits, with the sprite at the end of memory. -/
theorem witness_DrawInvertsExactlyTheTargetedPixels : ∃ s : State, s.I.toNat + (5 : Nibble).toNat - 1 = 0xFFF ∧ s.cfg.drawEdge = .fault ∧
    ¬BeyondGrid (s.readV 0).toNat (s.readV 1).toNat (5 : Nibble).toNat ∧ (s.readV 0).toNat = 56 ∧ (s.readV 1).toNat = 27 :=
  ⟨withEdge (regsAndI [(0, 56), (1, 27)] 0x0FFB) .fault, by decide, by decide, by unfold BeyondGrid; decide, by decide, by decide⟩

/-- The same place with the corner pixel as a target (bit 0 of the last sprite byte, the last byte of memory). -/
def cornerDraw (fb : Framebuffer) : State :=
  { (withEdge (regsAndI [(0, 56), (1, 27)] 0x0FFB) .fault).poke 0xFFF 0x01 with fb := fb }

theorem cornerDraw_covered (fb : Framebuffer) : Covered (cornerDraw fb) 56 27 5 (63, 31) :=
  ⟨4, by decide, 7, by decide, show ((cornerDraw Framebuffer.clear).peek 0xFFF).getLsbD 0 = true by decide, rfl, rfl⟩

/-- The clause for `VF` = 1: a target that is lit. -/
theorem witness_DrawInvertsExactlyTheTargetedPixels_lit : ∃ p, Covered (cornerDraw (lit [(63, 31)])) 56 27 5 p ∧
    (cornerDraw (lit [(63, 31)])).pixel p = true := ⟨(63, 31), cornerDraw_covered _, by decide⟩

/-- The clause for `VF` = 0: there is a target, and no target is lit. -/
theorem witness_DrawInvertsExactlyTheTargetedPixels_unlit : (∃ p, Covered (cornerDraw Framebuffer.clear) 56 27 5 p) ∧
    ∀ p, Covered (cornerDraw Framebuffer.clear) 56 27 5 p → (cornerDraw Framebuffer.clear).pixel p = false :=
  ⟨⟨(63, 31), cornerDraw_covered _⟩, fun p _ => Framebuffer.get_clear p⟩

theorem witness_DrawFaultsBeforeAnythingIsDrawn :
    (∃ s : State, s.cfg.drawEdge = .fault ∧ BeyondGrid (s.readV 0).toNat (s.readV 1).toNat (5 : Nibble).toNat) ∧
    (∃ s : State, ¬(s.cfg.drawEdge = .fault ∧ BeyondGrid (s.readV 0).toNat (s.readV 1).toNat (5 : Nibble).toNat) ∧
      s.I.toNat + (5 : Nibble).toNat - 1 = 0x1000) :=
  ⟨⟨withEdge (regsAndI [(0, 56), (1, 28)] 0) .fault, by unfold BeyondGrid; decide⟩,
    ⟨withEdge (regsAndI [(0, 56), (1, 27)] 0x0FFC) .fault, by unfold BeyondGrid; decide⟩⟩

theorem witness_DrawingTwiceRestoresTheFramebuffer : ∃ s t : State, s.fault = none ∧ exec (.drw 0 1 5) s = .next t ∧ t.fault = none ∧
    t.readV 0 = s.readV 0 ∧ t.readV 1 = s.readV 1 :=
  ⟨regsAndI [(0, 62), (1, 31)] 0, _, by decide, rfl, by decide, by decide, by decide⟩

theorem witness_DrawModesAgreeInsideTheGrid : ∃ s t : State,
    ¬BeyondGrid (s.readV 0).toNat (s.readV 1).toNat (5 : Nibble).toNat ∧ exec (.drw 0 1 5) s = .next t :=
  ⟨regsAndI [(0, 56), (1, 27)] 0, _, by unfold BeyondGrid; decide, rfl⟩

theorem witness_KeySkipsTestTheKeyNamedByTheRegister :
    (∃ s : State, (s.readV 0).toNat = 15 ∧ s.key[15] = true) ∧ (∃ s : State, (s.readV 0).toNat = 15 ∧ s.key[15] = false) ∧
    (∃ s : State, (s.readV 0).toNat = 16) :=
  ⟨⟨{ regsAndI [(0, 15)] 0 with key := State.reset.key.set 15 true }, by decide⟩, ⟨regsAndI [(0, 15)] 0, by decide⟩,
    ⟨regsAndI [(0, 16)] 0, by decide⟩⟩

theorem witness_WaitForKeyTakesTheLeastPressedKey :
    (∃ s : State, s.key[(15 : Fin 16).val] = true ∧ ∀ k : Fin 16, k.val < 15 → s.key[k.val] = false) ∧
    (∃ s : State, ∀ k : Fin 16, s.key[k.val] = false) :=
  ⟨⟨{ State.reset with key := State.reset.key.set 15 true }, by decide⟩, ⟨State.reset, by decide⟩⟩

theorem witness_TickCountsBothTimersDown : State.reset.init = true ∧ powerOn.init = false := by decide

theorem witness_TimersReachZeroAfterTheirCountOfTicks : ∃ s t : State, s.init = true ∧ t = runSchedule (List.replicate 2 .tick) s ∧
    s.ST = 2 ∧ t.ST = 0 := ⟨{ State.reset with ST := 2 }, _, by decide, rfl, by decide, by decide⟩

theorem witness_SetKeysReplacesAllFlags : ∃ s : State, s.init = true := ⟨State.reset, by decide⟩

theorem witness_LoadCopiesTheProgramOrRejectsIt : State.reset.init = true ∧ powerOn.init = false ∧
    (List.replicate 3584 (0xAA : Byte)).length = 4096 - 0x200 ∧ 4096 - 0x200 < (List.replicate 3585 (0x55 : Byte)).length := by
  rw [List.length_replicate, List.length_replicate]
  decide

theorem witness_NothingHappensBeforeTheFirstReset : powerOn.init = false ∧ HostOp.tick ≠ .reset ∧ HostOp.reset ∉ [HostOp.step, .tick] := by
  decide

theorem witness_OnlyResetLeavesTheHaltedState : halted.fault ≠ none ∧ HostOp.reset ∉ [HostOp.load [0x60, 0x05], .step, .tick] := by decide

theorem witness_FinishedStateIsAFixedPointOfStep : (start 0x1200 []).finished = true := by decide

end Sys2Proof.Tests
end

section
/-!
The tick of the timers (`60_exceptions.md` section 8, R143): what it answers, its frame, and O51.
-/

namespace Sys2Proof.Machine

@[simp] theorem State.ticked_pixel (s : State) (p : Pixel) : s.ticked.pixel p = s.pixel p := rfl

theorem HostOp.run_tick_of_init {s : State} (h : s.init = true) : HostOp.tick.run s = .next s.ticked :=
  State.afterReset_of_init h _

theorem HostOp.run_tick_of_not_init {s : State} (h : s.init = false) : HostOp.tick.run s = .refused .notReset :=
  State.afterReset_of_not_init h _

/-- The frame of a tick: the two timers. -/
theorem State.ticked_changesOnly (s : State) : ChangesOnly s s.ticked (fun e => e = .DT ∨ e = .ST) := by
  intro e he
  cases e with
  | DT => exact absurd (.inl rfl) he
  | ST => exact absurd (.inr rfl) he
  | _ => simp [Elem.same]

/-- Settles O51: after reset a tick answers `State.ticked`, whose two timers are each `countDown` of the old one. -/
theorem tickCountsBothTimersDown : Obligations.TickCountsBothTimersDown :=
  ⟨fun s hinit => ⟨s.ticked, HostOp.run_tick_of_init hinit, countDown_toNat s.DT, countDown_toNat s.ST, s.ticked_changesOnly⟩,
    fun _ => HostOp.run_tick_of_not_init⟩

end Sys2Proof.Machine
end

section
/-!
Loading a program (`70_reset_and_hazards.md` section 3, R158, R159): what `load()` answers in each of its three cases, the frame of the
copy it makes, and O54.
-/

namespace Sys2Proof.Machine

@[simp] theorem State.pokeList_pixel (s : State) (a : Nat) (bs : List Byte) (p : Pixel) : (s.pokeList a bs).pixel p = s.pixel p := by
  simp only [State.pixel, State.pokeList_fb]

/-- The frame of a copy to memory: the bytes it writes. -/
theorem State.pokeList_changesOnly (s : State) (a : Nat) (bs : List Byte) :
    ChangesOnly s (s.pokeList a bs) (fun e => ∃ k < bs.length, e = .byte (a + k)) := by
  intro e he
  cases e with
  | byte a' =>
    have hout : ¬ (a ≤ a' ∧ a' - a < bs.length) :=
      fun ⟨hle, hlt⟩ => he ⟨a' - a, hlt, congrArg Elem.byte (Nat.add_sub_of_le hle).symm⟩
    rw [Elem.same, State.peek_pokeList, dif_neg hout]
  | _ => simp [Elem.same]

/-- A byte of the copy is read back at its place. -/
theorem State.peek_pokeList_add (s : State) (a : Nat) (bs : List Byte) (k : Nat) (h : k < bs.length) :
    (s.pokeList a bs).peek (a + k) = bs[k] := by
  simp [State.peek_pokeList, h]

theorem HostOp.run_load_of_fits {s : State} {bytes : List Byte} (hi : s.init = true) (hb : bytes.length ≤ maxProgram) :
    (HostOp.load bytes).run s = .next (s.pokeList 0x200 bytes) := by
  simp [HostOp.run, hostLoad, State.afterReset_of_init hi, imageWf, hb]

theorem HostOp.run_load_of_too_large {s : State} {bytes : List Byte} (hi : s.init = true) (hb : maxProgram < bytes.length) :
    (HostOp.load bytes).run s = .refused .romTooLarge := by
  simp [HostOp.run, hostLoad, State.afterReset_of_init hi, imageWf, Nat.not_le.2 hb]

theorem HostOp.run_load_of_not_init {s : State} (h : s.init = false) (bytes : List Byte) :
    (HostOp.load bytes).run s = .refused .notReset :=
  State.afterReset_of_not_init h _

/-- A refused operation leaves the state to the rest of the schedule as it was. -/
theorem runSchedule_cons_of_refused {o : HostOp} {s : State} {r : Refusal} (h : o.run s = .refused r) (os : List HostOp) :
    runSchedule (o :: os) s = runSchedule os s := by
  rw [runSchedule, h]

/-- Settles O54: a program that fits (`maxProgram` is 4096 - 0x200) answers the copy `State.pokeList`, whose frame is the bytes written;
the other two cases are refusals. -/
theorem loadCopiesTheProgramOrRejectsIt : Obligations.LoadCopiesTheProgramOrRejectsIt := by
  refine ⟨fun bytes s hi hb => ?fits, fun bytes s hi hb => ?tooLarge, fun bytes _ hi => HostOp.run_load_of_not_init hi bytes⟩
  case fits =>
    exact ⟨s.pokeList 0x200 bytes, HostOp.run_load_of_fits hi hb, s.peek_pokeList_add 0x200 bytes, s.pokeList_changesOnly 0x200 bytes⟩
  case tooLarge =>
    have hrun : (HostOp.load bytes).run s = .refused .romTooLarge := HostOp.run_load_of_too_large hi hb
    exact ⟨hrun, runSchedule_cons_of_refused hrun []⟩

end Sys2Proof.Machine
end

section
/-!
Decoding and encoding (`30_encoding.md` sections 1 to 3): the decoder and the encoder are inverse to each other, and the opcode table
says which words decode. O1, O2, O3 and O4.
-/

namespace Sys2Proof

/-! ## Decode after encode -/

theorem decodeWord_encode (i : Instr) : decodeWord (encode i) = some i := by
  cases i with
  | cls => rfl
  | ret => rfl
  | _ => simp [encode, decodeWord, decodeRegSkip, decodeAlu, decodeKeySkip, decodeMisc]

/-- Settles O1: the decoder reads the word back from its two bytes, and the word's fields are the operands. -/
theorem decodingAnEncodedInstructionGivesItBack : Obligations.DecodingAnEncodedInstructionGivesItBack := by
  intro i rest
  rw [decode_bytesOfWord, decodeWord_encode]

/-! ## Encode after decode, family by family -/

theorem formatA_of_fieldF {op : Word} {f : Nibble} (h : fieldF op = f) : formatA f (fieldNNN op) = op :=
  h ▸ formatA_fields op

theorem formatXI_of_fieldF {op : Word} {f : Nibble} (h : fieldF op = f) : formatXI f (fieldX op) (fieldNN op) = op :=
  h ▸ formatXI_fields op

theorem formatXI_of_fieldF_fieldNN {op : Word} {f : Nibble} {nn : Byte} (h : fieldF op = f) (hnn : fieldNN op = nn) :
    formatXI f (fieldX op) nn = op :=
  hnn ▸ formatXI_of_fieldF h

theorem formatXYN_of_fieldF {op : Word} {f : Nibble} (h : fieldF op = f) :
    formatXYN f (fieldX op) (fieldY op) (fieldN op) = op :=
  h ▸ formatXYN_fields op

theorem formatXYN_of_fieldF_fieldN {op : Word} {f n : Nibble} (h : fieldF op = f) (hn : fieldN op = n) :
    formatXYN f (fieldX op) (fieldY op) n = op :=
  hn ▸ formatXYN_of_fieldF h

theorem encode_of_decodeSystem {op : Word} {i : Instr} (h : decodeSystem op = some i) : encode i = op := by
  unfold decodeSystem at h
  split_ifs at h with hcls hret
  · cases h; exact hcls.symm
  · cases h; exact hret.symm

theorem encode_of_decodeRegSkip {op : Word} {i : Instr} {c : Reg → Reg → Instr} {f : Nibble}
    (hc : ∀ x y, encode (c x y) = formatXYN f x y 0x0#4) (hf : fieldF op = f) (h : decodeRegSkip op c = some i) : encode i = op := by
  unfold decodeRegSkip at h
  split_ifs at h with hn
  cases h
  rw [hc, formatXYN_of_fieldF_fieldN hf hn]

theorem encode_of_decodeAlu {op : Word} {i : Instr} (hf : fieldF op = 0x8#4) (h : decodeAlu op = some i) : encode i = op := by
  unfold decodeAlu at h
  dsimp only at h
  split at h
  case h_10 => cases h
  all_goals
    rename_i hn
    cases h
    exact formatXYN_of_fieldF_fieldN hf (BitVec.toNat_inj.1 hn)

theorem encode_of_decodeKeySkip {op : Word} {i : Instr} (hf : fieldF op = 0xE#4) (h : decodeKeySkip op = some i) :
    encode i = op := by
  unfold decodeKeySkip at h
  split_ifs at h with hnn hnn
  all_goals
    cases h
    exact formatXI_of_fieldF_fieldNN hf hnn

theorem encode_of_decodeMisc {op : Word} {i : Instr} (hf : fieldF op = 0xF#4) (h : decodeMisc op = some i) : encode i = op := by
  unfold decodeMisc at h
  dsimp only at h
  split_ifs at h with hnn hnn hnn hnn hnn hnn hnn hnn hnn
  all_goals
    cases h
    exact formatXI_of_fieldF_fieldNN hf hnn

theorem encode_of_decodeWord {op : Word} {i : Instr} (h : decodeWord op = some i) : encode i = op := by
  unfold decodeWord at h
  split at h
  case h_1 => exact encode_of_decodeSystem h
  case h_6 hf => exact encode_of_decodeRegSkip (f := 0x5#4) (fun _ _ => rfl) (BitVec.toNat_inj.1 hf) h
  case h_9 hf => exact encode_of_decodeAlu (BitVec.toNat_inj.1 hf) h
  case h_10 hf => exact encode_of_decodeRegSkip (f := 0x9#4) (fun _ _ => rfl) (BitVec.toNat_inj.1 hf) h
  case h_15 hf => exact encode_of_decodeKeySkip (BitVec.toNat_inj.1 hf) h
  case h_16 =>
    have hf : (fieldF op).toNat = 0xF := by
      have := (fieldF op).isLt
      simp only [imp_false] at *
      omega
    exact encode_of_decodeMisc (BitVec.toNat_inj.1 hf) h
  -- the families of format XI, of format A and of format XYN in which no digit but `F` is fixed
  case h_4 hf | h_5 hf | h_7 hf | h_8 hf | h_13 hf => cases h; exact formatXI_of_fieldF (BitVec.toNat_inj.1 hf)
  case h_2 hf | h_3 hf | h_11 hf | h_12 hf => cases h; exact formatA_of_fieldF (BitVec.toNat_inj.1 hf)
  case h_14 hf => cases h; exact formatXYN_of_fieldF (BitVec.toNat_inj.1 hf)

/-- Settles O2: in each family of the decoder the fixed digits compared and the fields read make up the whole word. -/
theorem encodingADecodedWordGivesTheWordBack : Obligations.EncodingADecodedWordGivesTheWordBack :=
  fun _ _ => encode_of_decodeWord

/-! ## The opcode table -/

theorem fieldF_of_mask {op mask value : Word} (h : op &&& mask = value) (hm : fieldF mask = 0xF#4) : fieldF op = fieldF value := by
  have hand : fieldF (op &&& mask) = fieldF op &&& fieldF mask := BitVec.extractLsb'_and
  rw [← h, hand, hm]
  exact (BitVec.and_allOnes).symm

theorem fieldN_of_mask {op mask value : Word} (h : op &&& mask = value) (hm : fieldN mask = 0xF#4) : fieldN op = fieldN value := by
  have hand : fieldN (op &&& mask) = fieldN op &&& fieldN mask := BitVec.extractLsb'_and
  rw [← h, hand, hm]
  exact (BitVec.and_allOnes).symm

theorem fieldNN_of_mask {op mask value : Word} (h : op &&& mask = value) (hm : fieldNN mask = 0xFF#8) :
    fieldNN op = fieldNN value := by
  have hand : fieldNN (op &&& mask) = fieldNN op &&& fieldNN mask := BitVec.extractLsb'_and
  rw [← h, hand, hm]
  exact (BitVec.and_allOnes).symm

theorem formatA_of_mask {op : Word} {f : Nibble} (h : op &&& 0xF000#16 = formatA f 0) : formatA f (fieldNNN op) = op :=
  formatA_of_fieldF ((fieldF_of_mask h rfl).trans (fieldF_formatA f 0))

theorem formatXI_of_mask {op : Word} {f : Nibble} (h : op &&& 0xF000#16 = formatXI f 0 0) :
    formatXI f (fieldX op) (fieldNN op) = op :=
  formatXI_of_fieldF ((fieldF_of_mask h rfl).trans (fieldF_formatXI f 0 0))

theorem formatXI_of_maskX {op : Word} {f : Nibble} {nn : Byte} (h : op &&& 0xF0FF#16 = formatXI f 0 nn) :
    formatXI f (fieldX op) nn = op :=
  formatXI_of_fieldF_fieldNN ((fieldF_of_mask h rfl).trans (fieldF_formatXI f 0 nn))
    ((fieldNN_of_mask h rfl).trans (fieldNN_formatXI f 0 nn))

theorem formatXYN_of_mask {op : Word} {f n : Nibble} (h : op &&& 0xF00F#16 = formatXYN f 0 0 n) :
    formatXYN f (fieldX op) (fieldY op) n = op :=
  formatXYN_of_fieldF_fieldN ((fieldF_of_mask h rfl).trans (fieldF_formatXYN f 0 0 n))
    ((fieldN_of_mask h rfl).trans (fieldN_formatXYN f 0 0 n))

theorem formatXYN_of_maskF {op : Word} {f : Nibble} (h : op &&& 0xF000#16 = formatXYN f 0 0 0) :
    formatXYN f (fieldX op) (fieldY op) (fieldN op) = op :=
  formatXYN_of_fieldF ((fieldF_of_mask h rfl).trans (fieldF_formatXYN f 0 0 0))

/-- Words that are encodings of what is read off their fields decode to it. -/
theorem wordsDecodeTo_of_encode {mask value : Word} {i : Word → Instr}
    (h : ∀ op : Word, op &&& mask = value → encode (i op) = op) : Machine.WordsDecodeTo mask value i :=
  fun op hm => (congrArg decodeWord (h op hm)).symm.trans (decodeWord_encode (i op))

/-- A word that matches the row of an instruction encodes an instruction of the same row. -/
theorem encodes_of_matches {op : Word} (i : Instr) (h : op &&& i.row.mask = i.row.value) :
    ∃ j, encode j = op ∧ j.row = i.row := by
  cases i with
  | cls => exact ⟨.cls, h.symm.trans BitVec.and_allOnes, rfl⟩
  | ret => exact ⟨.ret, h.symm.trans BitVec.and_allOnes, rfl⟩
  | jp => exact ⟨.jp (fieldNNN op), formatA_of_mask h, rfl⟩
  | call => exact ⟨.call (fieldNNN op), formatA_of_mask h, rfl⟩
  | seVxNn => exact ⟨.seVxNn (fieldX op) (fieldNN op), formatXI_of_mask h, rfl⟩
  | sneVxNn => exact ⟨.sneVxNn (fieldX op) (fieldNN op), formatXI_of_mask h, rfl⟩
  | seVxVy => exact ⟨.seVxVy (fieldX op) (fieldY op), formatXYN_of_mask h, rfl⟩
  | ldVxNn => exact ⟨.ldVxNn (fieldX op) (fieldNN op), formatXI_of_mask h, rfl⟩
  | addVxNn => exact ⟨.addVxNn (fieldX op) (fieldNN op), formatXI_of_mask h, rfl⟩
  | ldVxVy => exact ⟨.ldVxVy (fieldX op) (fieldY op), formatXYN_of_mask h, rfl⟩
  | orVxVy => exact ⟨.orVxVy (fieldX op) (fieldY op), formatXYN_of_mask h, rfl⟩
  | andVxVy => exact ⟨.andVxVy (fieldX op) (fieldY op), formatXYN_of_mask h, rfl⟩
  | xorVxVy => exact ⟨.xorVxVy (fieldX op) (fieldY op), formatXYN_of_mask h, rfl⟩
  | addVxVy => exact ⟨.addVxVy (fieldX op) (fieldY op), formatXYN_of_mask h, rfl⟩
  | sub => exact ⟨.sub (fieldX op) (fieldY op), formatXYN_of_mask h, rfl⟩
  | shr => exact ⟨.shr (fieldX op) (fieldY op), formatXYN_of_mask h, rfl⟩
  | subn => exact ⟨.subn (fieldX op) (fieldY op), formatXYN_of_mask h, rfl⟩
  | shl => exact ⟨.shl (fieldX op) (fieldY op), formatXYN_of_mask h, rfl⟩
  | sneVxVy => exact ⟨.sneVxVy (fieldX op) (fieldY op), formatXYN_of_mask h, rfl⟩
  | ldINnn => exact ⟨.ldINnn (fieldNNN op), formatA_of_mask h, rfl⟩
  | jpV0 => exact ⟨.jpV0 (fieldNNN op), formatA_of_mask h, rfl⟩
  | rnd => exact ⟨.rnd (fieldX op) (fieldNN op), formatXI_of_mask h, rfl⟩
  | drw => exact ⟨.drw (fieldX op) (fieldY op) (fieldN op), formatXYN_of_maskF h, rfl⟩
  | skp => exact ⟨.skp (fieldX op), formatXI_of_maskX h, rfl⟩
  | sknp => exact ⟨.sknp (fieldX op), formatXI_of_maskX h, rfl⟩
  | ldVxDt => exact ⟨.ldVxDt (fieldX op), formatXI_of_maskX h, rfl⟩
  | ldVxK => exact ⟨.ldVxK (fieldX op), formatXI_of_maskX h, rfl⟩
  | ldDtVx => exact ⟨.ldDtVx (fieldX op), formatXI_of_maskX h, rfl⟩
  | ldStVx => exact ⟨.ldStVx (fieldX op), formatXI_of_maskX h, rfl⟩
  | addIVx => exact ⟨.addIVx (fieldX op), formatXI_of_maskX h, rfl⟩
  | ldFVx => exact ⟨.ldFVx (fieldX op), formatXI_of_maskX h, rfl⟩
  | ldBVx => exact ⟨.ldBVx (fieldX op), formatXI_of_maskX h, rfl⟩
  | ldMemVx => exact ⟨.ldMemVx (fieldX op), formatXI_of_maskX h, rfl⟩
  | ldVxMem => exact ⟨.ldVxMem (fieldX op), formatXI_of_maskX h, rfl⟩

/-- Every instruction's word matches its own row, a row of the table (the family `Laws.TableRow`). -/
theorem tableRow_statement (i : Instr) : Laws.TableRow.Statement i := by
  cases i with
  | cls => exact Laws.TableRow.cls
  | ret => exact Laws.TableRow.ret
  | jp nnn => exact Laws.TableRow.jp nnn
  | call nnn => exact Laws.TableRow.call nnn
  | seVxNn x nn => exact Laws.TableRow.seVxNn x nn
  | sneVxNn x nn => exact Laws.TableRow.sneVxNn x nn
  | seVxVy x y => exact Laws.TableRow.seVxVy x y
  | ldVxNn x nn => exact Laws.TableRow.ldVxNn x nn
  | addVxNn x nn => exact Laws.TableRow.addVxNn x nn
  | ldVxVy x y => exact Laws.TableRow.ldVxVy x y
  | orVxVy x y => exact Laws.TableRow.orVxVy x y
  | andVxVy x y => exact Laws.TableRow.andVxVy x y
  | xorVxVy x y => exact Laws.TableRow.xorVxVy x y
  | addVxVy x y => exact Laws.TableRow.addVxVy x y
  | sub x y => exact Laws.TableRow.sub x y
  | shr x y => exact Laws.TableRow.shr x y
  | subn x y => exact Laws.TableRow.subn x y
  | shl x y => exact Laws.TableRow.shl x y
  | sneVxVy x y => exact Laws.TableRow.sneVxVy x y
  | ldINnn nnn => exact Laws.TableRow.ldINnn nnn
  | jpV0 nnn => exact Laws.TableRow.jpV0 nnn
  | rnd x nn => exact Laws.TableRow.rnd x nn
  | drw x y n => exact Laws.TableRow.drw x y n
  | skp x => exact Laws.TableRow.skp x
  | sknp x => exact Laws.TableRow.sknp x
  | ldVxDt x => exact Laws.TableRow.ldVxDt x
  | ldVxK x => exact Laws.TableRow.ldVxK x
  | ldDtVx x => exact Laws.TableRow.ldDtVx x
  | ldStVx x => exact Laws.TableRow.ldStVx x
  | addIVx x => exact Laws.TableRow.addIVx x
  | ldFVx x => exact Laws.TableRow.ldFVx x
  | ldBVx x => exact Laws.TableRow.ldBVx x
  | ldMemVx x => exact Laws.TableRow.ldMemVx x
  | ldVxMem x => exact Laws.TableRow.ldVxMem x

/-- A decoded word matches the row of its instruction, which is one of the table's. -/
theorem row_of_decodeWord {op : Word} {i : Instr} (h : decodeWord op = some i) :
    i.row ∈ opcodeTable ∧ op &&& i.row.mask = i.row.value := by
  obtain ⟨hmatch, hmem⟩ := tableRow_statement i
  rw [encode_of_decodeWord h] at hmatch
  exact ⟨hmem, hmatch⟩

theorem exists_instr_of_mem_opcodeTable {r : OpcodeRow} (h : r ∈ opcodeTable) : ∃ i : Instr, i.row = r := by
  simp only [opcodeTable, List.mem_append, List.mem_map] at h
  obtain ((⟨i, -, hi⟩ | ⟨i, -, hi⟩) | ⟨i, -, hi⟩) | ⟨i, -, hi⟩ := h <;> exact ⟨i, hi⟩

/-- A word that matches a row of the table decodes to an instruction of that row. -/
theorem decodes_of_matches_row {op : Word} {r : OpcodeRow} (hr : r ∈ opcodeTable) (h : op &&& r.mask = r.value) :
    ∃ i, decodeWord op = some i ∧ i.row = r := by
  obtain ⟨i, rfl⟩ := exists_instr_of_mem_opcodeTable hr
  obtain ⟨j, rfl, hrow⟩ := encodes_of_matches i h
  exact ⟨j, decodeWord_encode j, hrow⟩

theorem decodeWord_eq_none_of_no_row {op : Word} (h : ∀ r ∈ opcodeTable, op &&& r.mask ≠ r.value) : decodeWord op = none := by
  refine Option.eq_none_iff_forall_ne_some.2 fun i hi => ?_
  obtain ⟨hmem, hmatch⟩ := row_of_decodeWord hi
  exact h _ hmem hmatch

/-- Settles O3: the rows are disjoint because a word that matches two of them decodes to an instruction of both. -/
theorem wordDecodesExactlyWhenItMatchesARow : Obligations.WordDecodesExactlyWhenItMatchesARow := by
  refine ⟨rfl, ?disjoint, fun op => ⟨?matched, ?decoded⟩, fun op i => row_of_decodeWord⟩
  case disjoint =>
    intro op r r' hr hr' h h'
    obtain ⟨i, hi, rfl⟩ := decodes_of_matches_row hr h
    obtain ⟨j, hj, rfl⟩ := decodes_of_matches_row hr' h'
    rw [Option.some.inj (hi.symm.trans hj)]
  case matched =>
    rintro ⟨i, hi⟩
    exact ⟨i.row, row_of_decodeWord hi⟩
  case decoded =>
    rintro ⟨r, hr, h⟩
    obtain ⟨i, hi, -⟩ := decodes_of_matches_row hr h
    exact ⟨i, hi⟩

/-- Settles O4: closed words, evaluated by the decoder. -/
theorem writtenOutWordsDecodeAsTheTableSays : Obligations.WrittenOutWordsDecodeAsTheTableSays := by
  unfold Obligations.WrittenOutWordsDecodeAsTheTableSays
  decide

end Sys2Proof
end

section
/-!
Frames (`00_scope.md` R16): how `ChangesOnly` composes, and the frame of each operation of `Machine/Ops.lean` and its neighbours, said
once. The frame of an instruction is then put together from the frames of the operations its meaning is made of.
-/

namespace Sys2Proof.Machine

/-! ## Composing frames -/

theorem Elem.same_refl (s : State) (e : Elem) : e.same s s := by cases e <;> rfl

theorem Elem.same_trans {s t u : State} {e : Elem} (h : e.same s t) (h' : e.same t u) : e.same s u := by
  cases e <;> exact h'.trans h

theorem ChangesOnly.refl (s : State) (c : Elem → Prop) : ChangesOnly s s c := fun e _ => Elem.same_refl s e

theorem ChangesOnly.mono {s t : State} {c d : Elem → Prop} (h : ChangesOnly s t c) (hcd : ∀ e, c e → d e) : ChangesOnly s t d :=
  fun e he => h e fun hc => he (hcd e hc)

theorem ChangesOnly.trans {s t u : State} {c d : Elem → Prop} (h : ChangesOnly s t c) (h' : ChangesOnly t u d) :
    ChangesOnly s u (fun e => c e ∨ d e) :=
  fun e he => Elem.same_trans (h e fun hc => he (.inl hc)) (h' e fun hd => he (.inr hd))

/-! ## Operations that change one element -/

theorem State.writeV_changesOnly (s : State) (r : Reg) (b : Byte) : ChangesOnly s (s.writeV r b) (fun e => e = .reg r) := by
  intro e he
  cases e with
  | reg r' => exact s.readV_writeV_ne b fun h => he (congrArg Elem.reg h)
  | _ => rfl

theorem State.setFlag_changesOnly (s : State) (c : Byte) : ChangesOnly s (s.setFlag c) (fun e => e = .reg VF) :=
  s.writeV_changesOnly VF c

theorem State.setI_changesOnly (s : State) (w : Word) : ChangesOnly s (s.setI w) (fun e => e = .I) := by
  intro e he
  cases e with
  | I => exact absurd rfl he
  | _ => rfl

theorem State.setPc_changesOnly (s : State) (w : Word) : ChangesOnly s (s.setPc w) (fun e => e = .pc) := by
  intro e he
  cases e with
  | pc => exact absurd rfl he
  | _ => rfl

theorem State.advance_changesOnly (s : State) : ChangesOnly s s.advance (fun e => e = .pc) := s.setPc_changesOnly (s.pc + 2)

theorem State.skipIf_changesOnly (s : State) (c : Bool) : ChangesOnly s (s.skipIf c) (fun e => e = .pc) := by
  cases c with
  | false => exact s.advance_changesOnly
  | true => exact s.setPc_changesOnly (s.pc + 4)

theorem State.poke_changesOnly (s : State) (a : Nat) (b : Byte) : ChangesOnly s (s.poke a b) (fun e => e = .byte a) := by
  intro e he
  cases e with
  | byte a' => rw [Elem.same, State.peek_poke, if_neg fun h => he (congrArg Elem.byte h)]
  | _ => rfl

theorem State.raised_changesOnly (s : State) (k : FaultKind) : ChangesOnly s (s.raised k) (fun e => e = .fault) := by
  intro e he
  cases e with
  | fault => exact absurd rfl he
  | _ => rfl

theorem State.consume_changesOnly (s : State) : ChangesOnly s s.consume (fun e => e = .draws) := by
  intro e he
  cases e with
  | draws => exact absurd rfl he
  | _ => rfl

theorem State.pop_changesOnly (s : State) : ChangesOnly s s.pop (fun e => e = .sp) := by
  intro e he
  cases e with
  | sp => exact absurd rfl he
  | _ => rfl

theorem State.setOpcode_changesOnly (s : State) (op : Word) : ChangesOnly s (s.setOpcode op) (fun e => e = .opcode) := by
  intro e he
  cases e with
  | opcode => exact absurd rfl he
  | _ => rfl

theorem State.setDT_changesOnly (s : State) (b : Byte) : ChangesOnly s (s.setDT b) (fun e => e = .DT) := by
  intro e he
  cases e with
  | DT => exact absurd rfl he
  | _ => rfl

theorem State.setST_changesOnly (s : State) (b : Byte) : ChangesOnly s (s.setST b) (fun e => e = .ST) := by
  intro e he
  cases e with
  | ST => exact absurd rfl he
  | _ => rfl

theorem State.countUnrecognized_changesOnly (s : State) : ChangesOnly s s.countUnrecognized (fun e => e = .unkCount) := by
  intro e he
  cases e with
  | unkCount => exact absurd rfl he
  | _ => rfl

/-! ## Operations that change several elements -/

theorem State.push_changesOnly (s : State) (h : s.sp.val < 16) :
    ChangesOnly s (s.push h) (fun e => e = .sp ∨ e = .stackEntry ⟨s.sp.val, h⟩) := by
  intro e he
  cases e with
  | sp => exact absurd (.inl rfl) he
  | stackEntry j =>
    have hj : s.sp.val ≠ j.val := fun hj => he (.inr (congrArg Elem.stackEntry (Fin.ext hj.symm)))
    exact Vector.getElem_set_ne h j.isLt hj
  | _ => rfl

theorem State.clearScreen_changesOnly (s : State) : ChangesOnly s s.clearScreen (fun e => ∃ p, e = .pixel p) := by
  intro e he
  cases e with
  | pixel p => exact absurd ⟨p, rfl⟩ he
  | _ => rfl

theorem State.setKeys_changesOnly (s : State) (k : Vector Bool 16) : ChangesOnly s (s.setKeys k) (fun e => ∃ j, e = .key j) := by
  intro e he
  cases e with
  | key j => exact absurd ⟨j, rfl⟩ he
  | _ => rfl

/-- `FX55`'s loop changes the bytes it stores. -/
theorem State.storeRegs_changesOnly (s : State) (n : Nat) :
    ChangesOnly s (s.storeRegs n) (fun e => ∃ k < n, e = .byte (s.addr k)) := by
  induction n with
  | zero => exact ChangesOnly.refl s _
  | succ n ih =>
    refine (ih.trans ((s.storeRegs n).poke_changesOnly _ _)).mono fun e he => ?_
    obtain ⟨k, hk, rfl⟩ | rfl := he
    · exact ⟨k, Nat.lt_succ_of_lt hk, rfl⟩
    · exact ⟨n, Nat.lt_succ_self n, rfl⟩

/-- `FX65`'s loop changes the registers it loads. -/
theorem State.loadRegs_changesOnly (s : State) {n : Nat} (hn : n ≤ 16) :
    ChangesOnly s (s.loadRegs n) (fun e => ∃ k : Reg, k.toNat < n ∧ e = .reg k) := by
  induction n with
  | zero => exact ChangesOnly.refl s _
  | succ n ih =>
    refine ((ih (by omega)).trans ((s.loadRegs n).writeV_changesOnly _ _)).mono fun e he => ?_
    obtain ⟨k, hk, rfl⟩ | rfl := he
    · exact ⟨k, Nat.lt_succ_of_lt hk, rfl⟩
    · exact ⟨BitVec.ofNat 4 n, by rw [BitVec.toNat_ofNat]; omega, rfl⟩

theorem State.storeDigits_changesOnly (s : State) (v : Byte) :
    ChangesOnly s (s.storeDigits v) (fun e => ∃ k < 3, e = .byte (s.addr k)) := by
  refine (((s.poke_changesOnly _ _).trans (State.poke_changesOnly _ _ _)).trans (State.poke_changesOnly _ _ _)).mono fun e he => ?_
  obtain (rfl | rfl) | rfl := he
  · exact ⟨0, by decide, rfl⟩
  · exact ⟨1, by decide, rfl⟩
  · exact ⟨2, by decide, rfl⟩

/-! ## Instructions that complete -/

/-- The frame of an instruction that changes `c` and then advances pc. -/
theorem ChangesOnly.advance {s t : State} {c : Elem → Prop} (h : ChangesOnly s t c) :
    ChangesOnly s t.advance (fun e => e = .pc ∨ c e) :=
  (h.trans t.advance_changesOnly).mono fun _ => Or.symm

end Sys2Proof.Machine
end

section
/-!
What an instruction answers, said once: the fault it records (`faultOn`), or what it writes (`written`) and where it goes on (`nextPc`).
`exec_of_faultOn_some` and `exec_of_faultOn_none` tie the three to the model's `exec`; the statements about every instruction follow by a
case split over the instructions. O9 to O14.
-/

namespace Sys2Proof.Machine

/-! ## The fault an instruction records (`60_exceptions.md` R132) -/

/-- `MemOutOfRange`, on the model's own count of the bytes an instruction touches. -/
def memoryFault (i : Instr) (s : State) : Option FaultKind :=
  if s.outOfRange (accessLength i) then some .memOutOfRange else none

/-- The fault `i` records in `s`, if any. -/
def faultOn : Instr → State → Option FaultKind
  | .ret, s => if s.sp.val = 0 then some .stackUnderflow else none
  | .call _, s => if s.sp.val = 16 then some .stackOverflow else none
  | .skp x, s => if 15 < (s.readV x).toNat then some .keyIndexOutOfRange else none
  | .sknp x, s => if 15 < (s.readV x).toNat then some .keyIndexOutOfRange else none
  | .drw x y n, s =>
    if 0 < n.toNat ∧ s.cfg.drawEdge = .fault ∧ offGrid (s.readV x).toNat (s.readV y).toNat n.toNat = true then some .drawOutOfRange
    else memoryFault (.drw x y n) s
  | i, s => memoryFault i s

/-! ## What an instruction that records no fault does -/

/-- What a completed instruction writes, pc aside. -/
def written : Instr → State → State
  | .cls, s => s.clearScreen
  | .ret, s => s.pop
  | .call _, s => if h : s.sp.val < 16 then s.push h else s
  | .ldVxNn x nn, s => s.writeV x nn
  | .addVxNn x nn, s => s.writeV x (s.readV x + nn)
  | .ldVxVy x y, s => s.writeV x (s.readV y)
  | .orVxVy x y, s => s.writeV x (s.readV x ||| s.readV y)
  | .andVxVy x y, s => s.writeV x (s.readV x &&& s.readV y)
  | .xorVxVy x y, s => s.writeV x (s.readV x ^^^ s.readV y)
  | .addVxVy x y, s =>
    let t := s.setFlag (carryFlag (s.readV x) (s.readV y))
    t.writeV x (t.readV x + t.readV y)
  | .sub x y, s =>
    let t := s.setFlag (noBorrowFlag (s.readV x) (s.readV y))
    t.writeV x (t.readV x - t.readV y)
  | .shr x y, s =>
    let t := s.setFlag (lowBitFlag (s.readV (s.shiftReg x y)))
    t.writeV x (t.readV (s.shiftReg x y) >>> 1)
  | .subn x y, s =>
    let t := s.setFlag (noBorrowFlag (s.readV y) (s.readV x))
    t.writeV x (t.readV y - t.readV x)
  | .shl x y, s =>
    let t := s.setFlag (highBitFlag (s.readV (s.shiftReg x y)))
    t.writeV x (t.readV (s.shiftReg x y) <<< 1)
  | .ldINnn nnn, s => s.setI (zext16 nnn)
  | .rnd x nn, s => (s.writeV x (s.drawn &&& nn)).consume
  | .drw x y n, s =>
    s.setCanvas (s.drawRows (s.readV x).toNat (s.readV y).toNat n.toNat { fb := s.fb, hit := false })
  | .ldVxDt x, s => s.writeV x s.DT
  | .ldVxK x, s =>
    match s.firstKey with
    | some j => s.writeV x (BitVec.ofNat 8 j)
    | none => s
  | .ldDtVx x, s => s.setDT (s.readV x)
  | .ldStVx x, s => s.setST (s.readV x)
  | .addIVx x, s =>
    let t := s.setFlag (indexFlag s.I (s.readV x))
    t.setI (t.I + byteToWord (t.readV x))
  | .ldFVx x, s => s.setI (byteToWord (s.readV x) * 5)
  | .ldBVx x, s => s.storeDigits (s.readV x)
  | .ldMemVx x, s => s.storeRegs (x.toNat + 1)
  | .ldVxMem x, s => s.loadRegs (x.toNat + 1)
  | _, s => s

theorem written_call_of_lt (nnn : Addr12) {s : State} (h : s.sp.val < 16) : written (.call nnn) s = s.push h := dif_pos h

theorem written_call_of_not_lt (nnn : Addr12) {s : State} (h : ¬ s.sp.val < 16) : written (.call nnn) s = s := dif_neg h

/-- Where a skip with the given outcome goes on. -/
def State.skipPc (s : State) (taken : Bool) : Word := if taken then s.pc + 4 else s.pc + 2

theorem State.skipIf_eq (s : State) (taken : Bool) : s.skipIf taken = s.setPc (s.skipPc taken) := by cases taken <;> rfl

/-- Where a completed instruction goes on. -/
def nextPc : Instr → State → Word
  | .ret, s => s.stack[s.sp.val - 1]'(by have := s.sp.isLt; omega) + 2
  | .jp nnn, _ => zext16 nnn
  | .call nnn, _ => zext16 nnn
  | .jpV0 nnn, s => zext16 nnn + byteToWord (s.readV V0)
  | .seVxNn x nn, s => s.skipPc (s.readV x == nn)
  | .sneVxNn x nn, s => s.skipPc (s.readV x != nn)
  | .seVxVy x y, s => s.skipPc (s.readV x == s.readV y)
  | .sneVxVy x y, s => s.skipPc (s.readV x != s.readV y)
  | .skp x, s => s.skipPc ((s.keyOf x).elim false fun k => s.key[k.val])
  | .sknp x, s => s.skipPc ((s.keyOf x).elim false fun k => !s.key[k.val])
  | .ldVxK _, s => if s.firstKey.isSome then s.pc + 2 else s.pc
  | _, s => s.pc + 2

/-- The state a completed instruction leaves. -/
def completed (i : Instr) (s : State) : State := (written i s).setPc (nextPc i s)

/-! ## The three together are `exec` -/

theorem State.keyOf_of_le {s : State} {x : Reg} (h : (s.readV x).toNat ≤ 15) :
    s.keyOf x = some ⟨(s.readV x).toNat, Nat.lt_succ_of_le h⟩ := dif_pos (Nat.lt_succ_of_le h)

theorem State.keyOf_of_gt {s : State} {x : Reg} (h : 15 < (s.readV x).toNat) : s.keyOf x = none :=
  dif_neg (Nat.not_lt.2 h)

/-- The answer of an instruction whose last check is the one on memory. -/
theorem State.checked_done (i : Instr) (s t : State) :
    s.checked (accessLength i) (done t) = .next ((memoryFault i s).elim t.advance fun k => s.raised k) := by
  unfold State.checked memoryFault
  split <;> rfl

/-- What every instruction answers. -/
theorem exec_eq (i : Instr) (s : State) : exec i s = .next ((faultOn i s).elim (completed i s) fun k => s.raised k) := by
  cases i with
  | ret =>
    by_cases h : s.sp.val = 0
    · rw [show faultOn .ret s = some .stackUnderflow from if_pos h]
      exact dif_neg (by omega)
    · rw [show faultOn .ret s = none from if_neg h]
      exact dif_pos (Nat.pos_of_ne_zero h)
  | call nnn =>
    by_cases h : s.sp.val = 16
    · rw [show faultOn (.call nnn) s = some .stackOverflow from if_pos h]
      exact dif_neg (by omega)
    · have hlt : s.sp.val < 16 := by omega
      rw [show faultOn (.call nnn) s = none from if_neg h]
      simp [exec, execCall, hlt, completed, written, nextPc]
  | skp x =>
    by_cases h : 15 < (s.readV x).toNat
    · simp [exec, execSkp, faultOn, h, State.keyOf_of_gt h, raise]
    · simp [exec, execSkp, faultOn, h, State.keyOf_of_le (Nat.not_lt.1 h), State.skipIf_eq, completed, written, nextPc]
  | sknp x =>
    by_cases h : 15 < (s.readV x).toNat
    · simp [exec, execSknp, faultOn, h, State.keyOf_of_gt h, raise]
    · simp [exec, execSknp, faultOn, h, State.keyOf_of_le (Nat.not_lt.1 h), State.skipIf_eq, completed, written, nextPc]
  | ldVxK x =>
    rw [show faultOn (.ldVxK x) s = none from rfl]
    cases h : s.firstKey with
    | none => simp [exec, execLdVxK, h, completed, written, nextPc, State.setPc]
    | some j => simp [exec, execLdVxK, h, completed, written, nextPc, done, State.advance]
  | drw x y n =>
    by_cases h : 0 < n.toNat ∧ s.cfg.drawEdge = .fault ∧ offGrid (s.readV x).toNat (s.readV y).toNat n.toNat = true
    · rw [show faultOn (.drw x y n) s = some .drawOutOfRange from if_pos h]
      exact if_pos h
    · rw [show faultOn (.drw x y n) s = memoryFault (.drw x y n) s from if_neg h]
      exact (if_neg h).trans (State.checked_done (.drw x y n) s _)
  | ldBVx x => exact State.checked_done (.ldBVx x) s _
  | ldMemVx x =>
    refine (State.checked_done (.ldMemVx x) s _).trans ?_
    simp only [faultOn, completed, written, nextPc, State.advance, State.storeRegs_pc]
  | ldVxMem x =>
    refine (State.checked_done (.ldVxMem x) s _).trans ?_
    simp only [faultOn, completed, written, nextPc, State.advance, State.loadRegs_pc]
  | seVxNn | sneVxNn | seVxVy | sneVxVy => exact congrArg Host.Outcome.next (s.skipIf_eq _)
  | _ => rfl

theorem exec_of_faultOn_some {i : Instr} {s : State} {k : FaultKind} (h : faultOn i s = some k) :
    exec i s = .next (s.raised k) := by rw [exec_eq, h]; rfl

theorem exec_of_faultOn_none {i : Instr} {s : State} (h : faultOn i s = none) : exec i s = .next (completed i s) := by
  rw [exec_eq, h]; rfl

/-- The two kinds of next state of an instruction. -/
theorem exec_next {i : Instr} {s t : State} (h : exec i s = .next t) :
    (∃ k, faultOn i s = some k ∧ t = s.raised k) ∨ (faultOn i s = none ∧ t = completed i s) := by
  cases hf : faultOn i s with
  | some k => exact .inl ⟨k, rfl, Host.Outcome.next.inj (h.symm.trans (exec_of_faultOn_some hf))⟩
  | none => exact .inr ⟨rfl, Host.Outcome.next.inj (h.symm.trans (exec_of_faultOn_none hf))⟩

/-! ## What no instruction writes -/

/-- What a completed instruction writes is neither the host's nor the register `fault`. -/
theorem written_frame (i : Instr) (s : State) :
    (written i s).key = s.key ∧ (written i s).init = s.init ∧ (written i s).opcode = s.opcode ∧
    (written i s).unkCount = s.unkCount ∧ (written i s).cfg = s.cfg ∧ (written i s).fault = s.fault := by
  cases i with
  | call nnn =>
    by_cases h : s.sp.val < 16
    · simp [written_call_of_lt nnn h]
    · simp [written_call_of_not_lt nnn h]
  | ldVxK x => cases h : s.firstKey <;> simp [written, h]
  | _ => simp [written]

theorem completed_fault (i : Instr) (s : State) : (completed i s).fault = s.fault := by
  obtain ⟨-, -, -, -, -, hfault⟩ := written_frame i s
  exact hfault

/-- The register `fault` after an instruction on a core that is not halted. -/
theorem exec_fault {i : Instr} {s t : State} (hs : s.fault = none) (h : exec i s = .next t) : t.fault = faultOn i s := by
  rcases exec_next h with ⟨k, hk, rfl⟩ | ⟨hn, rfl⟩
  · exact hk.symm
  · rw [completed_fault, hs, hn]

/-- Settles O9: `exec` answers the fault of `faultOn`, which changes only that register, or the completed state, which keeps it. -/
theorem everyInstructionAnswersANextState : Obligations.EveryInstructionAnswersANextState := by
  intro i s
  cases h : faultOn i s with
  | some k => exact ⟨s.raised k, exec_of_faultOn_some h, .inr rfl⟩
  | none => exact ⟨completed i s, exec_of_faultOn_none h, .inl (completed_fault i s)⟩

/-- Settles O10: a fault writes its own register only, and `written_frame` is the completed case. -/
theorem noInstructionWritesHostOwnedState : Obligations.NoInstructionWritesHostOwnedState := by
  intro i s t h
  rcases exec_next h with ⟨k, -, rfl⟩ | ⟨-, rfl⟩
  · exact ⟨rfl, rfl, rfl, rfl, rfl⟩
  · obtain ⟨hkey, hinit, hopcode, hunk, hcfg, -⟩ := written_frame i s
    exact ⟨hkey, hinit, hopcode, hunk, hcfg⟩

/-- Settles O11: a fault writes none of the eight elements; of a completed instruction, its case of `written` names what it writes. -/
theorem onlyTheListedInstructionsWriteEachElement : Obligations.OnlyTheListedInstructionsWriteEachElement := by
  intro i s t h
  rcases exec_next h with ⟨k, -, rfl⟩ | ⟨-, rfl⟩
  · simp
  · cases i with
    | call nnn =>
      by_cases hsp : s.sp.val < 16
      · simp [completed, written_call_of_lt nnn hsp]
      · simp [completed, written_call_of_not_lt nnn hsp]
    | ldVxK x => cases hk : s.firstKey <;> simp [completed, written, hk]
    | _ => simp [completed, written]

/-! ## Where an instruction goes on -/

/-- Settles O13: a fault leaves pc, and `nextPc` is pc + 2 but for the control transfers, the skips and `FX0A`. -/
theorem onlyControlTransfersLeavePcOtherThanPlusTwo : Obligations.OnlyControlTransfersLeavePcOtherThanPlusTwo := by
  intro i s t hs h
  rcases exec_next h with ⟨k, -, rfl⟩ | ⟨-, rfl⟩
  · exact ⟨fun _ => rfl, fun hnone => nomatch hnone⟩
  · refine ⟨fun hf => absurd ((completed_fault i s).trans hs) hf, fun _ hpc => ?_⟩
    have hne : nextPc i s ≠ s.pc + 2 := hpc
    cases i with
    | ret | jp | call | jpV0 | seVxNn | sneVxNn | seVxVy | sneVxVy | skp | sknp | ldVxK => simp
    | _ => exact absurd rfl hne

/-! ## When an instruction faults -/

theorem memoryFault_eq_some (i : Instr) (s : State) (k : FaultKind) :
    memoryFault i s = some k ↔ k = .memOutOfRange ∧ 0 < accessLength i ∧ 0xFFF < s.I.toNat + accessLength i - 1 := by
  rw [← s.outOfRange_iff]
  unfold memoryFault
  split <;> simp [*, eq_comm]

/-- The fault of `DXYN`: the grid first, then memory. -/
theorem faultOn_drw (x y : Reg) (n : Nibble) (s : State) (k : FaultKind) :
    faultOn (.drw x y n) s = some k ↔ 0 < n.toNat ∧
      ((k = .drawOutOfRange ∧ s.cfg.drawEdge = .fault ∧ BeyondGrid (s.readV x).toNat (s.readV y).toNat n.toNat) ∨
       (k = .memOutOfRange ∧ 0xFFF < s.I.toNat + n.toNat - 1 ∧
        ¬(s.cfg.drawEdge = .fault ∧ BeyondGrid (s.readV x).toNat (s.readV y).toNat n.toNat))) := by
  by_cases hn : 0 < n.toNat
  · by_cases hg : s.cfg.drawEdge = .fault ∧ BeyondGrid (s.readV x).toNat (s.readV y).toNat n.toNat
    · simp [faultOn, hn, hg, offGrid_iff hn, eq_comm]
    · simp only [faultOn, hn, true_and, offGrid_iff hn, hg, if_false, memoryFault_eq_some, accessLength]
      tauto
  · simp [faultOn, memoryFault_eq_some, accessLength, hn]

/-- Settles O14: after an instruction the register is `faultOn`, read off instruction by instruction. -/
theorem eachFaultIsRecordedExactlyOnItsCondition : Obligations.EachFaultIsRecordedExactlyOnItsCondition := by
  intro i s t hs h
  rw [exec_fault hs h]
  cases i with
  | drw x y n => simp [faultOn_drw]
  | ret | call | skp | sknp => simp [faultOn]
  | _ => simp [faultOn, memoryFault_eq_some, accessLength]

/-! ## What no instruction reads -/

/-- The state with other values in the three elements no instruction reads. -/
def State.withUnread (s : State) (b : Byte) (w : Word) (n : Nat) : State := { s with ST := b, opcode := w, unkCount := n }

theorem faultOn_withUnread (i : Instr) (s : State) (b : Byte) (w : Word) (n : Nat) :
    faultOn i (s.withUnread b w n) = faultOn i s := by
  cases i <;> rfl

theorem nextPc_withUnread (i : Instr) (s : State) (b : Byte) (w : Word) (n : Nat) :
    nextPc i (s.withUnread b w n) = nextPc i s := by
  cases i <;> rfl

theorem State.storeRegs_withUnread (s : State) (b : Byte) (w : Word) (n k : Nat) :
    (s.withUnread b w n).storeRegs k = (s.storeRegs k).withUnread b w n := by
  induction k with
  | zero => rfl
  | succ k ih => rw [State.storeRegs, ih]; rfl

theorem State.loadRegs_withUnread (s : State) (b : Byte) (w : Word) (n k : Nat) :
    (s.withUnread b w n).loadRegs k = (s.loadRegs k).withUnread b w n := by
  induction k with
  | zero => rfl
  | succ k ih => rw [State.loadRegs, ih]; rfl

theorem State.drawRows_withUnread (s : State) (b : Byte) (w : Word) (n x y k : Nat) (c : Canvas) :
    (s.withUnread b w n).drawRows x y k c = s.drawRows x y k c := by
  induction k with
  | zero => rfl
  | succ k ih => rw [State.drawRows, ih]; rfl

/-- But for `FX18`, what an instruction writes does not depend on the three elements and leaves them. -/
theorem written_withUnread {i : Instr} (hi : ∀ x, i ≠ .ldStVx x) (s : State) (b : Byte) (w : Word) (n : Nat) :
    written i (s.withUnread b w n) = (written i s).withUnread b w n := by
  cases i with
  | ldStVx x => exact absurd rfl (hi x)
  | ldMemVx x => exact s.storeRegs_withUnread b w n _
  | ldVxMem x => exact s.loadRegs_withUnread b w n _
  | drw x y k => exact congrArg (State.setCanvas _) (s.drawRows_withUnread b w n _ _ _ _)
  | call nnn =>
    by_cases h : s.sp.val < 16
    · rw [written_call_of_lt nnn h]
      exact written_call_of_lt nnn (s := s.withUnread b w n) h
    · rw [written_call_of_not_lt nnn h]
      exact written_call_of_not_lt nnn (s := s.withUnread b w n) h
  | ldVxK x =>
    have hkey : (s.withUnread b w n).firstKey = s.firstKey := rfl
    cases h : s.firstKey with
    | none => simp only [written, hkey, h]
    | some j => simp only [written, hkey, h]; rfl
  | _ => rfl

/-- Settles O12: `faultOn`, `nextPc` and `written` do not depend on the three elements, and `FX18` overwrites `ST`. -/
theorem noInstructionReadsSoundTimerOrDiagnostics : Obligations.NoInstructionReadsSoundTimerOrDiagnostics := by
  intro i s t b w n h
  rcases exec_next h with ⟨k, hk, rfl⟩ | ⟨hn, rfl⟩
  · have hanswer : exec i (s.withUnread b w n) = .next ((s.raised k).withUnread b w n) :=
      exec_of_faultOn_some ((faultOn_withUnread i s b w n).trans hk)
    refine ⟨fun _ => hanswer, ?_⟩
    rintro ⟨x, rfl⟩
    exact nomatch hk
  · have hanswer : exec i (s.withUnread b w n) = .next (completed i (s.withUnread b w n)) :=
      exec_of_faultOn_none ((faultOn_withUnread i s b w n).trans hn)
    constructor
    · intro hi
      rw [completed, written_withUnread hi, nextPc_withUnread] at hanswer
      exact hanswer
    · rintro ⟨x, rfl⟩
      exact hanswer

end Sys2Proof.Machine
end

section
/-!
The step (`30_encoding.md` section 4, `60_exceptions.md` sections 1 to 3): what it answers in each of its cases, and what it reports.
O5 to O8, O15 and O16.
-/

namespace Sys2Proof.Machine

/-! ## The answer in each case -/

theorem step_of_not_init {s : State} (h : s.init = false) : step s = .refused .notReset := if_pos h

theorem step_of_halted {s : State} (hinit : s.init = true) (hfault : s.fault ≠ none) : step s = .refused .halted := by
  simp [step, cycle, hinit, hfault]

theorem step_of_fetch_beyond {s : State} (hinit : s.init = true) (hfault : s.fault = none) (hpc : 0xFFE < s.pc.toNat) :
    step s = .next (s.raised .fetchOutOfRange) := by
  simp [step, cycle, hinit, hfault, State.fetch16_of_gt hpc, raise]

theorem step_of_unrecognized {s : State} {op : Word} (hinit : s.init = true) (hfault : s.fault = none) (hop : s.fetch16 = some op)
    (hd : decodeWord op = none) : step s = .next (unrecognizedStep op (s.setOpcode op)) := by
  simp [step, cycle, hinit, hfault, hop, runWord, hd]

theorem step_of_decodes {s : State} {op : Word} {i : Instr} (hinit : s.init = true) (hfault : s.fault = none)
    (hop : s.fetch16 = some op) (hd : decodeWord op = some i) : step s = exec i (s.setOpcode op) := by
  simp [step, cycle, hinit, hfault, hop, runWord, hd]

theorem exec_ne_refused (i : Instr) (s : State) (r : Refusal) : exec i s ≠ .refused r := by
  rw [exec_eq]
  exact nofun

/-- An unrecognized word is counted and moves pc or not; nothing else. -/
theorem unrecognizedStep_eq (op : Word) (s : State) :
    unrecognizedStep op s = s.countUnrecognized.setPc (if fieldF op ∈ s.cfg.unkAdvance then s.pc + 2 else s.pc) := by
  unfold unrecognizedStep
  split <;> rfl

/-- Everything a step that is not refused can leave. -/
theorem step_next {s t : State} (h : step s = .next t) :
    s.init = true ∧ s.fault = none ∧
    ((0xFFE < s.pc.toNat ∧ t = s.raised .fetchOutOfRange) ∨
     ∃ op, s.pc.toNat ≤ 0xFFE ∧
      (t = unrecognizedStep op (s.setOpcode op) ∨ (∃ k, t = (s.setOpcode op).raised k) ∨
       ∃ i, faultOn i (s.setOpcode op) = none ∧ t = completed i (s.setOpcode op))) := by
  rcases step_cases s with ⟨-, hs⟩ | ⟨-, -, hs⟩ | ⟨hinit, hfault, hpc, hs⟩ | ⟨op, hinit, hfault, -, hpc, -, hs⟩ |
    ⟨op, i, hinit, hfault, -, hpc, -, hs⟩ <;> rw [hs] at h
  · cases h
  · cases h
  · exact ⟨hinit, hfault, .inl ⟨hpc, (Host.Outcome.next.inj h).symm⟩⟩
  · exact ⟨hinit, hfault, .inr ⟨op, hpc, .inl (Host.Outcome.next.inj h).symm⟩⟩
  · refine ⟨hinit, hfault, .inr ⟨op, hpc, .inr ?_⟩⟩
    rcases exec_next h with ⟨k, -, ht⟩ | ⟨hn, ht⟩
    · exact .inl ⟨k, ht⟩
    · exact .inr ⟨i, hn, ht⟩

/-! ## Running an instruction, and the refusals -/

theorem decodeWord_of_decode_pair {hi lo : Byte} {i : Instr} {rest : List Byte} (h : decode [hi, lo] = .instr i rest) :
    decodeWord (wordOfBytes hi lo) = some i := by
  cases hd : decodeWord (wordOfBytes hi lo) with
  | none => simp [decode, hd] at h
  | some j =>
    obtain ⟨rfl, -⟩ : j = i ∧ [] = rest := by simpa [decode, hd] using h
    rfl

/-- Settles O5: the word fetched is the two bytes at pc, and a decoded word runs its instruction. -/
theorem stepRunsTheDecodedInstruction : Obligations.StepRunsTheDecodedInstruction := by
  intro s i hinit hfault hpc hd
  exact step_of_decodes hinit hfault (State.fetch16_of_le hpc) (decodeWord_of_decode_pair hd)

/-- Settles O6: of the cases of a step the first two are the refusals, and no other case is one. -/
theorem stepIsRefusedExactlyWhenNotResetOrHalted : Obligations.StepIsRefusedExactlyWhenNotResetOrHalted := by
  intro s
  rcases step_cases s with ⟨hinit, hs⟩ | ⟨hinit, hfault, hs⟩ | ⟨hinit, hfault, -, hs⟩ | ⟨op, hinit, hfault, -, -, -, hs⟩ |
    ⟨op, i, hinit, hfault, -, -, -, hs⟩
  · simp [hs, hinit]
  · simp [hs, hinit, hfault]
  · simp [hs, hinit, hfault]
  · simp [hs, hinit, hfault]
  · simp [hs, hinit, hfault, exec_ne_refused]

/-! ## Faults of a step, and its report -/

theorem report_of_next {s t : State} (h : step s = .next t) : report s = reportOf t := by
  rw [report, h]

theorem reportOf_raised (k : FaultKind) (s : State) : reportOf (s.raised k) = .faulted k (faultInfo k (s.raised k)) := rfl

/-- Settles O7: the step leaves `State.raised`, in which the next step is refused. -/
theorem fetchBeyondMemoryFaults : Obligations.FetchBeyondMemoryFaults := by
  intro s hinit hfault hpc
  have hs : step s = .next (s.raised .fetchOutOfRange) := step_of_fetch_beyond hinit hfault hpc
  exact ⟨_, hs, rfl, rfl, s.raised_changesOnly _, step_of_halted hinit nofun, report_of_next hs⟩

theorem unrecognizedStep_changesOnly (op : Word) (s : State) :
    ChangesOnly s (unrecognizedStep op s) (fun e => e = .unkCount ∨ e = .pc) := by
  rw [unrecognizedStep_eq]
  exact s.countUnrecognized_changesOnly.trans (State.setPc_changesOnly _ _)

/-- Settles O8: a word of no row decodes to nothing, and `unrecognizedStep` counts it. -/
theorem unrecognizedWordIsCountedAndStalls : Obligations.UnrecognizedWordIsCountedAndStalls := by
  intro s op hinit hfault hpc hop hrows
  have hd : decodeWord op = none := decodeWord_eq_none_of_no_row hrows
  have hfetch : s.fetch16 = some op := by rw [State.fetch16_of_le hpc, hop, wordOfBytes]
  have hs : step s = .next (unrecognizedStep op (s.setOpcode op)) := step_of_unrecognized hinit hfault hfetch hd
  refine ⟨_, hs, ?_, ?_, ?_, (s.setOpcode_changesOnly op).trans (unrecognizedStep_changesOnly op _), ?_⟩
  · simp [unrecognizedStep_eq]
  · simp [unrecognizedStep_eq]
  · rw [unrecognizedStep_eq]
    rfl
  · rw [report_of_next hs, unrecognizedStep_eq]
    simp [reportOf, hfault, hd]

/-- Settles O15: a step that leaves a fault recorded raised it, since an unrecognized word and a completed instruction keep the register. -/
theorem faultingStepChangesOnlyFaultAndOpcode : Obligations.FaultingStepChangesOnlyFaultAndOpcode := by
  intro s t hs ht
  obtain ⟨hinit, hfault, ⟨-, rfl⟩ | ⟨op, -, rfl | ⟨k, rfl⟩ | ⟨i, -, rfl⟩⟩⟩ := step_next hs
  · exact ⟨rfl, (s.raised_changesOnly _).mono fun _ => .inl, step_of_halted hinit ht⟩
  · rw [unrecognizedStep_eq] at ht
    exact absurd hfault ht
  · exact ⟨rfl, ((s.setOpcode_changesOnly op).trans (State.raised_changesOnly _ k)).mono fun _ => Or.symm, step_of_halted hinit ht⟩
  · exact absurd ((completed_fault i (s.setOpcode op)).trans hfault) ht

theorem faultOn_setOpcode (i : Instr) (s : State) (op : Word) : faultOn i (s.setOpcode op) = faultOn i s :=
  faultOn_withUnread i s s.ST op s.unkCount

/-- What a step reports whose instruction faults. -/
theorem report_of_faultOn {s : State} {op : Word} {i : Instr} {k : FaultKind} (hinit : s.init = true) (hfault : s.fault = none)
    (hop : s.fetch16 = some op) (hd : decodeWord op = some i) (hk : faultOn i s = some k) :
    report s = .faulted k (faultInfo k ((s.setOpcode op).raised k)) := by
  have hs : step s = .next ((s.setOpcode op).raised k) :=
    (step_of_decodes hinit hfault hop hd).trans (exec_of_faultOn_some ((faultOn_setOpcode i s op).trans hk))
  exact (report_of_next hs).trans (reportOf_raised k _)

/-- The info value of a memory fault: the last address of the instruction's access. -/
theorem faultInfo_memOutOfRange {s : State} {op : Word} {i : Instr} (hd : decodeWord op = some i) :
    faultInfo .memOutOfRange ((s.setOpcode op).raised .memOutOfRange) = some (s.I.toNat + accessLength i - 1) := by
  simp [faultInfo, hd]

/-- The info value of a key fault: the register the word's field `X` names. -/
theorem faultInfo_keyIndexOutOfRange (s : State) (op : Word) :
    faultInfo .keyIndexOutOfRange ((s.setOpcode op).raised .keyIndexOutOfRange) = some (s.readV (fieldX op)).toNat := rfl

theorem fieldX_of_decodes_keySkip {op : Word} {i : Instr} {x : Reg} (hi : i = .skp x ∨ i = .sknp x) (hd : decodeWord op = some i) :
    fieldX op = x := by
  rw [← encode_of_decodeWord hd]
  rcases hi with rfl | rfl
  · exact fieldX_formatXI _ _ _
  · exact fieldX_formatXI _ _ _

/-- Settles O16: each clause is `report_of_faultOn` for the fault of its instruction. -/
theorem reportCarriesTheFaultInfo : Obligations.ReportCarriesTheFaultInfo := by
  intro s i hinit hfault hpc hd
  obtain ⟨op, hop, hd⟩ : ∃ op, s.fetch16 = some op ∧ decodeWord op = some i := ⟨_, State.fetch16_of_le hpc, hd⟩
  have hreport : ∀ k, faultOn i s = some k → report s = .faulted k (faultInfo k ((s.setOpcode op).raised k)) :=
    fun k hk => report_of_faultOn hinit hfault hop hd hk
  have hmem : faultOn i s = some .memOutOfRange → report s = .faulted .memOutOfRange (some (s.I.toNat + accessLength i - 1)) :=
    fun hk => (hreport _ hk).trans (congrArg _ (faultInfo_memOutOfRange hd))
  refine ⟨?digits, ?registers, ?sprite, ?key, ?grid, ?underflow, ?overflow⟩
  case digits =>
    rintro x rfl hout
    exact hmem ((memoryFault_eq_some _ s _).2 ⟨rfl, Nat.succ_pos _, hout⟩)
  case registers =>
    rintro x (rfl | rfl) hout
    · exact hmem ((memoryFault_eq_some _ s _).2 ⟨rfl, Nat.succ_pos _, hout⟩)
    · exact hmem ((memoryFault_eq_some _ s _).2 ⟨rfl, Nat.succ_pos _, hout⟩)
  case sprite =>
    rintro x y n rfl hn hout hgrid
    exact hmem ((faultOn_drw x y n s _).2 ⟨hn, .inr ⟨rfl, hout, hgrid⟩⟩)
  case key =>
    intro x hi hkey
    have hk : faultOn i s = some .keyIndexOutOfRange := by
      rcases hi with rfl | rfl
      · exact if_pos hkey
      · exact if_pos hkey
    rw [hreport _ hk, faultInfo_keyIndexOutOfRange, fieldX_of_decodes_keySkip hi hd]
  case grid =>
    rintro x y n rfl hn hedge hgrid
    exact hreport _ ((faultOn_drw x y n s _).2 ⟨hn, .inl ⟨rfl, hedge, hgrid⟩⟩)
  case underflow =>
    rintro rfl hsp
    exact hreport _ (if_pos hsp)
  case overflow =>
    rintro nnn rfl hsp
    exact hreport _ (if_pos hsp)

end Sys2Proof.Machine
end

section
/-!
The invariant `State.Inv` (`10_state.md` section 4, `40_flow_control.md` section 1): it holds after reset, every step keeps it, and so does
every schedule of host operations. O17 to O21.
-/

namespace Sys2Proof.Machine

/-! ## Reset -/

/-- Settles O17: each element of `State.resetWith`, the memory being the empty list of cells. -/
theorem resetGivesEveryElementItsValue : Obligations.ResetGivesEveryElementItsValue := by
  intro s
  have hV : ∀ r, (hostReset s).readV r = 0 := fun r => Vector.getElem_replicate _
  have hstack : ∀ j : Fin 16, (hostReset s).stack[j.val] = 0 := fun j => Vector.getElem_replicate _
  have hkey : ∀ j : Fin 16, (hostReset s).key[j.val] = false := fun j => Vector.getElem_replicate _
  have hfont : ∀ a (h : a < 80), (hostReset s).peek a = s.cfg.font[a] := fun a h => Memory.unlisted_of_lt h
  have hzero : ∀ a, 80 ≤ a → a ≤ 0xFFF → (hostReset s).peek a = 0 := fun a h _ => Memory.unlisted_of_ge h
  exact ⟨hostReset s, rfl, hV, rfl, rfl, rfl, hstack, rfl, rfl, hkey, Framebuffer.get_clear, hfont, hzero, rfl, rfl, rfl, rfl, rfl⟩

theorem State.resetWith_inv (cfg : Config) (draws : Nat) : (State.resetWith cfg draws).Inv where
  mem_wf := Memory.wf_nil
  pc_le := show (0x0200#16).toNat ≤ 0x10FE by decide
  stack_le j := by simp [State.resetWith]
  unk_le := Nat.zero_le _

/-- Settles O19: reset leaves `State.resetWith` on every core. -/
theorem resetStateSatisfiesInv : Obligations.ResetStateSatisfiesInv :=
  ⟨State.resetWith_inv defaultConfig 0, fun s => State.resetWith_inv s.cfg s.draws⟩

/-! ## A completed instruction -/

theorem memoryFault_eq_none {i : Instr} {s : State} (h : memoryFault i s = none) (hi : 0 < accessLength i) :
    s.I.toNat + accessLength i ≤ memSize := by
  by_contra hgt
  have hsome := (memoryFault_eq_some i s .memOutOfRange).2 ⟨rfl, hi, by simp only [memSize] at hgt; omega⟩
  exact nomatch h.symm.trans hsome

/-- The two storing instructions that complete store inside memory. -/
theorem written_mem_wf {i : Instr} {s : State} (h : s.mem.wf s.cfg.font) (hn : faultOn i s = none) :
    (written i s).mem.wf (written i s).cfg.font := by
  cases i with
  | ldBVx x => exact State.storeDigits_wf h (memoryFault_eq_none hn (Nat.succ_pos _)) _
  | ldMemVx x => exact State.storeRegs_wf h (memoryFault_eq_none hn (Nat.succ_pos _))
  | ldVxMem x =>
    simp only [written, State.loadRegs_mem, State.loadRegs_cfg]
    exact h
  | call nnn =>
    by_cases hsp : s.sp.val < 16
    · rw [written_call_of_lt nnn hsp]
      exact h
    · rw [written_call_of_not_lt nnn hsp]
      exact h
  | ldVxK x =>
    cases hk : s.firstKey with
    | none => simpa only [written, hk] using h
    | some j => simpa only [written, hk, State.writeV_mem, State.writeV_cfg] using h
  | _ => exact h

/-- The only stack entry an instruction writes is the address of a call. -/
theorem written_stack_le {s : State} (i : Instr) (h : ∀ j : Fin 16, s.stack[j.val].toNat ≤ 0xFFE) (hpc : s.pc.toNat ≤ 0xFFE) :
    ∀ j : Fin 16, (written i s).stack[j.val].toNat ≤ 0xFFE := by
  cases i with
  | call nnn =>
    intro j
    by_cases hsp : s.sp.val < 16
    · simp only [written_call_of_lt nnn hsp, State.push_stack, Vector.getElem_set]
      split
      · exact hpc
      · exact h j
    · simp only [written_call_of_not_lt nnn hsp]
      exact h j
  | ldVxK x => cases hk : s.firstKey <;> simpa [written, hk] using h
  | _ => simpa [written] using h

theorem State.skipPc_le {s : State} (hpc : s.pc.toNat ≤ 0xFFE) (taken : Bool) : (s.skipPc taken).toNat ≤ 0x10FE := by
  unfold State.skipPc
  split <;> bv_omega

/-- The largest pc comes from `BNNN`, with `0xFFF` and 255. -/
theorem nextPc_le {s : State} (i : Instr) (h : ∀ j : Fin 16, s.stack[j.val].toNat ≤ 0xFFE) (hpc : s.pc.toNat ≤ 0xFFE) :
    (nextPc i s).toNat ≤ 0x10FE := by
  have hnext : (s.pc + 2).toNat ≤ 0x10FE := by bv_omega
  cases i with
  | ret =>
    have htop := h ⟨s.sp.val - 1, by have := s.sp.isLt; omega⟩
    simp only [nextPc]
    bv_omega
  | jp nnn | call nnn =>
    simp only [nextPc, zext16_toNat]
    omega
  | jpV0 nnn =>
    have hsum := BitVec.toNat_add (zext16 nnn) (byteToWord (s.readV V0))
    simp only [zext16_toNat, byteToWord_toNat] at hsum
    simp only [nextPc]
    omega
  | seVxNn | sneVxNn | seVxVy | sneVxVy | skp | sknp => exact State.skipPc_le hpc _
  | ldVxK x =>
    simp only [nextPc]
    split
    · exact hnext
    · omega
  | _ => exact hnext

theorem completed_inv {i : Instr} {s : State} (h : s.Inv) (hpc : s.pc.toNat ≤ 0xFFE) (hn : faultOn i s = none) :
    (completed i s).Inv where
  mem_wf := written_mem_wf h.mem_wf hn
  pc_le := nextPc_le i h.stack_le hpc
  stack_le := written_stack_le i h.stack_le hpc
  unk_le := by
    obtain ⟨-, -, -, hunk, hcfg, -⟩ := written_frame i s
    simp only [completed, State.setPc_unkCount, State.setPc_cfg, hunk, hcfg]
    exact h.unk_le

/-! ## The step -/

theorem State.raised_inv {s : State} (h : s.Inv) (k : FaultKind) : (s.raised k).Inv :=
  ⟨h.mem_wf, h.pc_le, h.stack_le, h.unk_le⟩

theorem State.setOpcode_inv {s : State} (h : s.Inv) (op : Word) : (s.setOpcode op).Inv :=
  ⟨h.mem_wf, h.pc_le, h.stack_le, h.unk_le⟩

theorem unrecognizedStep_inv {s : State} (h : s.Inv) (hpc : s.pc.toNat ≤ 0xFFE) (op : Word) : (unrecognizedStep op s).Inv := by
  rw [unrecognizedStep_eq]
  refine ⟨h.mem_wf, ?_, h.stack_le, Nat.min_le_right _ _⟩
  rw [State.setPc_pc]
  split
  · bv_omega
  · exact h.pc_le

theorem step_inv {s t : State} (h : s.Inv) (hs : step s = .next t) : t.Inv := by
  obtain ⟨-, -, ⟨-, rfl⟩ | ⟨op, hpc, rfl | ⟨k, rfl⟩ | ⟨i, hn, rfl⟩⟩⟩ := step_next hs
  · exact State.raised_inv h _
  · exact unrecognizedStep_inv (State.setOpcode_inv h op) hpc op
  · exact State.raised_inv (State.setOpcode_inv h op) k
  · exact completed_inv (State.setOpcode_inv h op) hpc hn

/-- Settles O20: each of the four states a step can leave satisfies the invariant. -/
theorem everyStepKeepsInv : Obligations.EveryStepKeepsInv := fun _ _ => step_inv

/-! ## Schedules -/

/-- What every operation of a schedule keeps holds after it. -/
theorem runSchedule_induction {P : State → Prop} {os : List HostOp} (hkeep : ∀ o ∈ os, ∀ s t, P s → o.run s = .next t → P t)
    {s : State} (hs : P s) : P (runSchedule os s) := by
  induction os generalizing s with
  | nil => exact hs
  | cons o os ih =>
    have htail : ∀ o ∈ os, ∀ s t, P s → o.run s = .next t → P t := fun o' ho' => hkeep o' (List.mem_cons_of_mem o ho')
    cases hrun : o.run s with
    | next t =>
      rw [runSchedule, hrun]
      exact ih htail (hkeep o List.mem_cons_self s t hs hrun)
    | refused r =>
      rw [runSchedule_cons_of_refused hrun]
      exact ih htail hs
    | fault f => nomatch f

theorem HostOp.run_inv {o : HostOp} {s t : State} (h : s.Inv) (hrun : o.run s = .next t) : t.Inv := by
  by_cases hstep : o = .step
  · subst hstep
    exact step_inv h hrun
  · obtain ⟨-, rfl⟩ | ⟨bytes, -, -, hlen, rfl⟩ | ⟨-, -, rfl⟩ | ⟨k, -, -, rfl⟩ := HostOp.run_next hrun hstep
    · exact State.resetWith_inv _ _
    · have hfits : 0x200 + bytes.length ≤ memSize := by simp only [maxProgram, memSize] at *; omega
      refine ⟨State.pokeList_wf h.mem_wf hfits, ?_, ?_, ?_⟩
      · simpa using h.pc_le
      · simpa using h.stack_le
      · simpa using h.unk_le
    · exact ⟨h.mem_wf, h.pc_le, h.stack_le, h.unk_le⟩
    · exact ⟨h.mem_wf, h.pc_le, h.stack_le, h.unk_le⟩

/-- Settles O21: by induction on the schedule, every operation keeping the invariant. -/
theorem everyHostScheduleKeepsInv : Obligations.EveryHostScheduleKeepsInv :=
  fun _ _ hs => runSchedule_induction (fun _ _ _ _ h hrun => HostOp.run_inv h hrun) hs

theorem step_cfg {s t : State} (hs : step s = .next t) : t.cfg = s.cfg := by
  obtain ⟨-, -, ⟨-, rfl⟩ | ⟨op, -, rfl | ⟨k, rfl⟩ | ⟨i, -, rfl⟩⟩⟩ := step_next hs
  · rfl
  · rw [unrecognizedStep_eq]
    rfl
  · rfl
  · obtain ⟨-, -, -, -, hcfg, -⟩ := written_frame i (s.setOpcode op)
    exact hcfg

theorem HostOp.run_cfg {o : HostOp} {s t : State} (hrun : o.run s = .next t) : t.cfg = s.cfg := by
  by_cases hstep : o = .step
  · subst hstep
    exact step_cfg hrun
  · obtain ⟨-, rfl⟩ | ⟨bytes, -, -, -, rfl⟩ | ⟨-, -, rfl⟩ | ⟨k, -, -, rfl⟩ := HostOp.run_next hrun hstep
    · rfl
    · exact s.pokeList_cfg _ _
    · rfl
    · rfl

theorem runSchedule_cfg (os : List HostOp) (s : State) : (runSchedule os s).cfg = s.cfg :=
  runSchedule_induction (P := fun u => u.cfg = s.cfg) (fun _ _ _ _ h hrun => (HostOp.run_cfg hrun).trans h) rfl

/-- Settles O18: the state after reset is a function of the configuration, which no schedule changes, and of the draws. -/
theorem resetForgetsEveryHistory : Obligations.ResetForgetsEveryHistory := by
  intro os s
  exact congrArg (State.resetWith · s.draws) (runSchedule_cfg os s)

end Sys2Proof.Machine
end

section
/-!
The host's schedules (`60_exceptions.md` sections 3, 4, 8 and 9, `70_reset_and_hazards.md` sections 1 and 8): ticks, keys, the core before
its first reset, the halted core and the finished run. O52, O53, O55, O56 and O57.
-/

namespace Sys2Proof.Machine

/-! ## Ticks and keys -/

theorem State.soundActive_iff (s : State) : s.soundActive = true ↔ 0 < s.ST.toNat := by simp [State.soundActive]

theorem runSchedule_tick_cons {s : State} (h : s.init = true) (os : List HostOp) :
    runSchedule (.tick :: os) s = runSchedule os s.ticked := by
  rw [runSchedule, HostOp.run_tick_of_init h]

theorem runSchedule_ticks {s : State} (h : s.init = true) (n : Nat) :
    (runSchedule (List.replicate n .tick) s).DT.toNat = s.DT.toNat - n ∧
    (runSchedule (List.replicate n .tick) s).ST.toNat = s.ST.toNat - n := by
  induction n generalizing s with
  | zero => exact ⟨rfl, rfl⟩
  | succ n ih =>
    obtain ⟨hDT, hST⟩ := ih (s := s.ticked) h
    rw [List.replicate_succ, runSchedule_tick_cons h, hDT, hST, State.ticked_DT, State.ticked_ST, countDown_toNat, countDown_toNat]
    omega

/-- Settles O52: each tick takes one off both timers, by induction on their number. -/
theorem timersReachZeroAfterTheirCountOfTicks : Obligations.TimersReachZeroAfterTheirCountOfTicks := by
  rintro n s t hinit rfl
  obtain ⟨hDT, hST⟩ := runSchedule_ticks hinit n
  refine ⟨hDT, hST, ?_⟩
  rw [State.soundActive_iff, hST]
  omega

/-- Settles O53: after reset the operation answers `State.setKeys`. -/
theorem setKeysReplacesAllFlags : Obligations.SetKeysReplacesAllFlags :=
  fun k s hinit => ⟨s.setKeys k, State.afterReset_of_init hinit _, fun _ => rfl, s.setKeys_changesOnly k⟩

/-! ## Before the first reset -/

theorem HostOp.run_of_not_init {o : HostOp} {s : State} (h : s.init = false) (ho : o ≠ .reset) : o.run s = .refused .notReset := by
  cases o with
  | reset => exact absurd rfl ho
  | load bytes => exact HostOp.run_load_of_not_init h bytes
  | step => exact step_of_not_init h
  | tick => exact HostOp.run_tick_of_not_init h
  | setKeys k => exact State.afterReset_of_not_init h _

/-- Settles O55: every operation but reset is refused, so a schedule of them leaves the state it began with. -/
theorem nothingHappensBeforeTheFirstReset : Obligations.NothingHappensBeforeTheFirstReset := by
  refine fun s hinit => ⟨fun o ho => HostOp.run_of_not_init hinit ho, fun os hos => ?_⟩
  refine runSchedule_induction (P := fun u => u = s) ?_ rfl
  rintro o ho u t rfl hrun
  have hreset : o ≠ .reset := fun h => hos (h ▸ ho)
  exact nomatch hrun.symm.trans (HostOp.run_of_not_init hinit hreset)

/-! ## The halted core -/

/-- What a host may still change in a halted core without a reset. -/
def HostMayChange (e : Elem) : Prop := e = .DT ∨ e = .ST ∨ (∃ j, e = .key j) ∨ ∃ a, e = .byte a

/-- In a halted core the operations other than reset change the timers, the keys and memory only. -/
theorem HostOp.run_of_halted {o : HostOp} {s t : State} (hfault : s.fault ≠ none) (ho : o ≠ .reset) (hrun : o.run s = .next t) :
    ChangesOnly s t HostMayChange := by
  by_cases hstep : o = .step
  · subst hstep
    obtain ⟨-, hnone, -⟩ := step_next hrun
    exact absurd hnone hfault
  · obtain ⟨hreset, -⟩ | ⟨bytes, -, -, -, rfl⟩ | ⟨-, -, rfl⟩ | ⟨k, -, -, rfl⟩ := HostOp.run_next hrun hstep
    · exact absurd hreset ho
    · exact (s.pokeList_changesOnly _ _).mono fun e ⟨k, _, he⟩ => .inr (.inr (.inr ⟨_, he⟩))
    · exact s.ticked_changesOnly.mono fun e he => he.imp_right .inl
    · exact (s.setKeys_changesOnly k).mono fun e he => .inr (.inr (.inl he))

/-- Settles O56: the frame of one operation, in which the register `fault` stays, repeated along the schedule. -/
theorem onlyResetLeavesTheHaltedState : Obligations.OnlyResetLeavesTheHaltedState := by
  intro os s hfault hos
  refine runSchedule_induction (P := fun u => ChangesOnly s u HostMayChange) ?_ (ChangesOnly.refl s _)
  intro o ho u t hu hrun
  have hreset : o ≠ .reset := fun h => hos (h ▸ ho)
  have hu_fault : u.fault = s.fault := hu .fault (by simp [HostMayChange])
  have hut : ChangesOnly u t HostMayChange := HostOp.run_of_halted (hu_fault ▸ hfault) hreset hrun
  exact (hu.trans hut).mono fun e he => he.elim id id

/-! ## The finished run -/

/-- A run has ended exactly when the core executes and the word at pc is a jump to pc. -/
theorem State.finished_iff (s : State) :
    s.finished = true ↔ s.init = true ∧ s.fault = none ∧
      ∃ op nnn, s.fetch16 = some op ∧ decodeWord op = some (.jp nnn) ∧ zext16 nnn = s.pc := by
  unfold State.finished State.running
  rw [Bool.and_eq_true, Bool.and_eq_true, decide_eq_true_iff, and_assoc]
  refine and_congr_right fun _ => and_congr_right fun _ => ?_
  constructor
  · intro h
    split at h
    · cases h
    · rename_i op hop
      split at h
      · rename_i nnn hd
        exact ⟨op, nnn, hop, hd, of_decide_eq_true h⟩
      · cases h
  · rintro ⟨op, nnn, hop, hd, hpc⟩
    simp [hop, hd, hpc]

/-- The step of a jump to itself writes the word to `opcode` and nothing else. -/
theorem step_of_self_jump {s : State} {op : Word} {nnn : Addr12} (hinit : s.init = true) (hfault : s.fault = none)
    (hop : s.fetch16 = some op) (hd : decodeWord op = some (.jp nnn)) (hpc : zext16 nnn = s.pc) :
    step s = .next (s.setOpcode op) := by
  rw [step_of_decodes hinit hfault hop hd, exec, execJp, hpc]
  rfl

/-- Settles O57: the step leaves `s.setOpcode op`, in which the same word is fetched and `opcode` already holds it. -/
theorem finishedStateIsAFixedPointOfStep : Obligations.FinishedStateIsAFixedPointOfStep := by
  intro s hs
  obtain ⟨hinit, hfault, op, nnn, hop, hd, hpc⟩ := s.finished_iff.1 hs
  refine ⟨s.setOpcode op, step_of_self_jump hinit hfault hop hd hpc, s.setOpcode_changesOnly op, ?_, ?_⟩
  · exact (s.setOpcode op).finished_iff.2 ⟨hinit, hfault, op, nnn, hop, hd, hpc⟩
  · exact step_of_self_jump (s := s.setOpcode op) hinit hfault hop hd hpc

end Sys2Proof.Machine
end

section
/-!
Control transfer (`40_flow_control.md`): return, jump, call and the register skips. O22 to O27.
-/

namespace Sys2Proof.Machine

/-- A faulting instruction, with its frame. -/
theorem exec_faults {i : Instr} {s : State} {k : FaultKind} (h : faultOn i s = some k) :
    ∃ t, exec i s = .next t ∧ t.fault = some k ∧ ChangesOnly s t (fun e => e = .fault) :=
  ⟨s.raised k, exec_of_faultOn_some h, rfl, s.raised_changesOnly k⟩

/-! ## Return, jump and call -/

/-- Settles O22: the completed return is `State.pop` and a jump, the other one raises. -/
theorem returnPopsAndContinuesAfterTheCall : Obligations.ReturnPopsAndContinuesAfterTheCall := by
  refine ⟨fun s h => ?_, fun s h => exec_faults (if_pos h)⟩
  have hn : faultOn .ret s = none := if_neg (Nat.ne_of_gt h)
  exact ⟨completed .ret s, exec_of_faultOn_none hn, rfl, rfl,
    (s.pop_changesOnly.trans (State.setPc_changesOnly _ _)).mono fun _ => Or.symm⟩

/-- Settles O23: `State.setPc` with the zero-extended address. -/
theorem jumpSetsPcOnly : Obligations.JumpSetsPcOnly :=
  fun nnn s => ⟨_, rfl, zext16_toNat nnn, s.setPc_changesOnly _⟩

theorem exec_call_of_lt (nnn : Addr12) {s : State} (h : s.sp.val < 16) :
    exec (.call nnn) s = .next ((s.push h).setPc (zext16 nnn)) := dif_pos h

/-- Settles O24: the completed call is `State.push` and a jump, the other one raises. -/
theorem callPushesItsOwnAddress : Obligations.CallPushesItsOwnAddress := by
  refine ⟨fun nnn s h => ?_, fun nnn s h => exec_faults (if_pos h)⟩
  refine ⟨_, exec_call_of_lt nnn h, Vector.getElem_set_self _, rfl, zext16_toNat nnn, ?_⟩
  exact ((s.push_changesOnly h).trans (State.setPc_changesOnly _ _)).mono fun _ => Or.symm

/-- Settles O25: the entry the return reads is the one the call wrote. -/
theorem returnAfterCallContinuesBehindIt : Obligations.ReturnAfterCallContinuesBehindIt := by
  intro nnn s t u hsp hcall hu_sp hu_stack
  obtain rfl : (s.push hsp).setPc (zext16 nnn) = t := Host.Outcome.next.inj ((exec_call_of_lt nnn hsp).symm.trans hcall)
  have hdepth : u.sp.val = s.sp.val + 1 := congrArg Fin.val hu_sp
  have hn : faultOn .ret u = none := if_neg (by omega)
  have htop : u.stack[u.sp.val - 1] = s.pc := by simp [hu_stack, hdepth]
  refine ⟨completed .ret u, exec_of_faultOn_none hn, congrArg (· + 2) htop, Fin.ext ?_, hu_stack⟩
  exact congrArg (· - 1) hdepth

/-- Settles O26: the sum of twelve bits and eight does not overflow sixteen. -/
theorem jumpWithOffsetAddsV0 : Obligations.JumpWithOffsetAddsV0 := by
  refine fun nnn s => ⟨_, rfl, ?_, s.setPc_changesOnly _⟩
  have hsum := BitVec.toNat_add (zext16 nnn) (byteToWord (s.readV V0))
  rw [zext16_toNat, byteToWord_toNat, Nat.mod_eq_of_lt (by omega)] at hsum
  exact hsum

/-! ## Skips -/

theorem State.skipIf_pc_of_true (s : State) {c : Bool} (h : c = true) : (s.skipIf c).pc = s.pc + 4 := by rw [State.skipIf_pc, if_pos h]

theorem State.skipIf_pc_of_false (s : State) {c : Bool} (h : c = false) : (s.skipIf c).pc = s.pc + 2 := by
  rw [h]
  rfl

/-- Settles O27: each skip is `State.skipIf` on its condition. -/
theorem registerSkipsMovePcByFourOrTwo : Obligations.RegisterSkipsMovePcByFourOrTwo := by
  refine ⟨wordsDecodeTo_of_encode fun _ h => formatXI_of_mask h, wordsDecodeTo_of_encode fun _ h => formatXI_of_mask h,
    wordsDecodeTo_of_encode fun _ h => formatXYN_of_mask h, wordsDecodeTo_of_encode fun _ h => formatXYN_of_mask h,
    fun x nn s => ?seNn, fun x nn s => ?sneNn, fun x y s => ?seVy, fun x y s => ?sneVy⟩
  case seNn | seVy =>
    exact ⟨_, rfl, fun h => s.skipIf_pc_of_true (beq_iff_eq.2 h), fun h => s.skipIf_pc_of_false (beq_eq_false_iff_ne.2 h),
      s.skipIf_changesOnly _⟩
  case sneNn | sneVy =>
    exact ⟨_, rfl, fun h => s.skipIf_pc_of_true (bne_iff_ne.2 h), fun h => s.skipIf_pc_of_false (bne_eq_false_iff_eq.2 h),
      s.skipIf_changesOnly _⟩

end Sys2Proof.Machine
end

section
/-!
Register loads, arithmetic, logic, shifts and random (`41_register_alu.md`). O28 to O35.
-/

namespace Sys2Proof.Machine

/-! ## Instructions that write one register -/

/-- Settles O28: each load is one `State.writeV`. -/
theorem registerLoadsWriteTheirDestination : Obligations.RegisterLoadsWriteTheirDestination :=
  ⟨wordsDecodeTo_of_encode fun _ h => formatXI_of_mask h, wordsDecodeTo_of_encode fun _ h => formatXYN_of_mask h,
    fun x nn s => ⟨_, rfl, s.readV_writeV_self x nn, rfl, (s.writeV_changesOnly x nn).advance⟩,
    fun x y s => ⟨_, rfl, s.readV_writeV_self x (s.readV y), rfl, (s.writeV_changesOnly x (s.readV y)).advance⟩⟩

/-- Settles O29: one `State.writeV` of the sum of two bytes. -/
theorem addByteWrapsWithoutAFlag : Obligations.AddByteWrapsWithoutAFlag := by
  refine ⟨wordsDecodeTo_of_encode fun _ h => formatXI_of_mask h,
    fun x nn s => ⟨_, rfl, ?sum, rfl, (s.writeV_changesOnly x _).advance⟩,
    fun x nn s => ⟨_, _, rfl, rfl, ?increment⟩⟩
  case sum => rw [State.advance_readV, State.readV_writeV_self, BitVec.toNat_add]
  case increment => simp [BitVec.toNat_add]

/-- Settles O30: one `State.writeV` of the bitwise result. -/
theorem logicIsBitwiseWithoutAFlag : Obligations.LogicIsBitwiseWithoutAFlag := by
  refine ⟨fun x y s => ⟨_, rfl, fun k _ => ?or, rfl, (s.writeV_changesOnly x _).advance⟩,
    fun x y s => ⟨_, rfl, fun k _ => ?and, rfl, (s.writeV_changesOnly x _).advance⟩,
    fun x y s => ⟨_, rfl, fun k _ => ?xor, rfl, (s.writeV_changesOnly x _).advance⟩⟩
  case or => rw [State.advance_readV, State.readV_writeV_self, BitVec.getLsbD_or]
  case and => rw [State.advance_readV, State.readV_writeV_self, BitVec.getLsbD_and]
  case xor => rw [State.advance_readV, State.readV_writeV_self, BitVec.getLsbD_xor]

/-- Settles O35: the drawn byte is masked, and `State.consume` counts it. -/
theorem randomByteIsMaskedAndConsumed : Obligations.RandomByteIsMaskedAndConsumed := by
  intro x nn s
  have hread : ((s.writeV x (s.drawn &&& nn)).consume.advance).readV x = s.drawn &&& nn := s.readV_writeV_self x _
  refine ⟨_, rfl, hread, ?_, rfl, rfl, ((s.writeV_changesOnly x _).trans (State.consume_changesOnly _)).advance⟩
  rw [hread, BitVec.and_assoc]
  simp

/-! ## Instructions that write the flag and then a register -/

/-- The flag is written first, and only a destination other than VF leaves it. -/
theorem State.readV_VF_flag_then_writeV (s : State) {x : Reg} (hx : x ≠ VF) (c r : Byte) :
    (((s.setFlag c).writeV x r).advance).readV VF = c := by
  rw [State.advance_readV, State.readV_writeV_ne _ r hx.symm, State.readV_setFlag, if_pos rfl]

theorem State.flag_then_writeV_changesOnly (s : State) (x : Reg) (c r : Byte) :
    ChangesOnly s (((s.setFlag c).writeV x r).advance) (fun e => e = .pc ∨ e = .reg x ∨ e = .reg VF) :=
  (((s.setFlag_changesOnly c).trans (State.writeV_changesOnly _ x r)).mono fun _ => Or.symm).advance

/-- An operand read after the flag was written. -/
theorem State.readV_setFlag_toNat (s : State) (c : Byte) (r : Reg) :
    ((s.setFlag c).readV r).toNat = if r = VF then c.toNat else (s.readV r).toNat := by
  rw [State.readV_setFlag]
  split <;> rfl

/-- What `8XY4` to `8XYE` have in common: the flag `c`, then the result `r` in VX. -/
theorem State.flag_then_writeV_spec (s : State) (x : Reg) (c r : Byte) :
    ∃ t, done ((s.setFlag c).writeV x r) = .next t ∧ (x ≠ VF → (t.readV VF).toNat = c.toNat) ∧ (t.readV x).toNat = r.toNat ∧
      t.pc = s.pc + 2 ∧ ChangesOnly s t (fun e => e = .pc ∨ e = .reg x ∨ e = .reg VF) :=
  ⟨_, rfl, fun hx => congrArg BitVec.toNat (s.readV_VF_flag_then_writeV hx c r),
    congrArg BitVec.toNat (State.readV_writeV_self _ x r), rfl, s.flag_then_writeV_changesOnly x c r⟩

theorem carryFlag_toNat (a b : Byte) : (carryFlag a b).toNat = if a.toNat + b.toNat > 255 then 1 else 0 := by simp [carryFlag]

theorem noBorrowFlag_toNat (a b : Byte) : (noBorrowFlag a b).toNat = if a.toNat ≥ b.toNat then 1 else 0 := by simp [noBorrowFlag]

theorem lowBitFlag_toNat (a : Byte) : (lowBitFlag a).toNat = a.toNat % 2 := by
  simp [lowBitFlag, Nat.and_one_is_mod]

theorem highBitFlag_toNat (a : Byte) : (highBitFlag a).toNat = a.toNat / 128 := by
  simp [highBitFlag, Nat.shiftRight_eq_div_pow]

theorem byte_sub_toNat (a b : Byte) : (a - b).toNat = (a.toNat + 256 - b.toNat) % 256 := by
  have hb := b.isLt
  rw [BitVec.toNat_sub]
  congr 1
  omega

theorem byte_ushiftRight_one_toNat (a : Byte) : (a >>> 1).toNat = a.toNat / 2 := by
  rw [BitVec.toNat_ushiftRight, Nat.shiftRight_eq_div_pow, pow_one]

theorem byte_shiftLeft_one_toNat (a : Byte) : (a <<< 1).toNat = 2 * a.toNat % 256 := by
  rw [BitVec.toNat_shiftLeft, Nat.shiftLeft_eq, pow_one, Nat.mul_comm]

theorem State.shiftReg_eq (s : State) (x y : Reg) : s.shiftReg x y = if s.cfg.shiftSource = .vy then y else x := by
  unfold State.shiftReg
  cases s.cfg.shiftSource <;> rfl

/-- Settles O31: `State.flag_then_writeV_spec` with the carry and the sum. -/
theorem addWritesCarryThenSum : Obligations.AddWritesCarryThenSum := by
  rintro x y s a b c rfl rfl rfl
  obtain ⟨t, ht, hflag, hres, hrest⟩ := s.flag_then_writeV_spec x (carryFlag (s.readV x) (s.readV y)) _
  refine ⟨t, ht, fun hx => (hflag hx).trans (carryFlag_toNat _ _), ?_, hrest⟩
  rw [hres, BitVec.toNat_add, State.readV_setFlag_toNat, State.readV_setFlag_toNat, carryFlag_toNat]

/-- Settles O32: `State.flag_then_writeV_spec` with the no-borrow flag and the difference. -/
theorem subtractionsWriteNoBorrowThenDifference : Obligations.SubtractionsWriteNoBorrowThenDifference := by
  constructor
  · rintro x y s a b c rfl rfl rfl
    obtain ⟨t, ht, hflag, hres, hrest⟩ := s.flag_then_writeV_spec x (noBorrowFlag (s.readV x) (s.readV y)) _
    refine ⟨t, ht, fun hx => (hflag hx).trans (noBorrowFlag_toNat _ _), ?_, hrest⟩
    rw [hres, byte_sub_toNat, State.readV_setFlag_toNat, State.readV_setFlag_toNat, noBorrowFlag_toNat]
  · rintro x y s a b c rfl rfl rfl
    obtain ⟨t, ht, hflag, hres, hrest⟩ := s.flag_then_writeV_spec x (noBorrowFlag (s.readV y) (s.readV x)) _
    refine ⟨t, ht, fun hx => (hflag hx).trans (noBorrowFlag_toNat _ _), ?_, hrest⟩
    rw [hres, byte_sub_toNat, State.readV_setFlag_toNat, State.readV_setFlag_toNat, noBorrowFlag_toNat]

/-- Settles O33: `State.flag_then_writeV_spec` with the bit shifted out and the shifted source. -/
theorem shiftsWriteTheLostBitThenTheShiftedSource : Obligations.ShiftsWriteTheLostBitThenTheShiftedSource := by
  constructor
  · rintro x y src s a c hsrc rfl rfl
    rw [← s.shiftReg_eq] at hsrc
    subst hsrc
    obtain ⟨t, ht, hflag, hres, hrest⟩ := s.flag_then_writeV_spec x (lowBitFlag (s.readV (s.shiftReg x y))) _
    refine ⟨t, ht, fun hx => (hflag hx).trans (lowBitFlag_toNat _), ?_, hrest⟩
    rw [hres, byte_ushiftRight_one_toNat, State.readV_setFlag_toNat, lowBitFlag_toNat]
  · rintro x y src s a c hsrc rfl rfl
    rw [← s.shiftReg_eq] at hsrc
    subst hsrc
    obtain ⟨t, ht, hflag, hres, hrest⟩ := s.flag_then_writeV_spec x (highBitFlag (s.readV (s.shiftReg x y))) _
    refine ⟨t, ht, fun hx => (hflag hx).trans (highBitFlag_toNat _), ?_, hrest⟩
    rw [hres, byte_shiftLeft_one_toNat, State.readV_setFlag_toNat, highBitFlag_toNat]

/-! ## The cases with selector 15 (R103) -/

/-- The conclusion shared by O31, O32 and O33: the flag `c` unless VX is VF, and the result `r` in VX. -/
def FlagThenResult (i : Instr) (s : State) (x : Reg) (c r : Nat) : Prop :=
  ∃ t, exec i s = .next t ∧ (x ≠ VF → (t.readV VF).toNat = c) ∧ (t.readV x).toNat = r ∧ t.pc = s.pc + 2 ∧
    ChangesOnly s t (fun e => e = .pc ∨ e = .reg x ∨ e = .reg VF)

theorem FlagThenResult.result {i : Instr} {s : State} {x : Reg} {c r r' : Nat} (h : FlagThenResult i s x c r) (hr : r = r') :
    ∃ t, exec i s = .next t ∧ (t.readV x).toNat = r' := by
  obtain ⟨t, ht, -, hres, -⟩ := h
  exact ⟨t, ht, hres.trans hr⟩

/-- With VF as the destination the other operand stays. -/
theorem FlagThenResult.of_destination_VF {i : Instr} {s : State} {c r r' v : Nat} (h : FlagThenResult i s VF c r) (hr : r = r')
    {y : Reg} (hy : y ≠ VF) (hv : v = (s.readV y).toNat) :
    ∃ t, exec i s = .next t ∧ (t.readV VF).toNat = r' ∧ (t.readV y).toNat = v := by
  obtain ⟨t, ht, -, hres, -, hframe⟩ := h
  have hother : t.readV y = s.readV y := hframe (.reg y) (by simp [hy])
  exact ⟨t, ht, hres.trans hr, by rw [hother, hv]⟩

/-- With another destination VF holds the flag. -/
theorem FlagThenResult.of_destination_ne {i : Instr} {s : State} {x : Reg} {c r r' : Nat} (h : FlagThenResult i s x c r)
    (hx : x ≠ VF) (hr : r = r') : ∃ t, exec i s = .next t ∧ (t.readV VF).toNat = c ∧ (t.readV x).toNat = r' := by
  obtain ⟨t, ht, hflag, hres, -⟩ := h
  exact ⟨t, ht, hflag hx, hres.trans hr⟩

/-- Settles O34: each line of the table is O31, O32 or O33 at those selectors. -/
theorem selectorFifteenCasesAreAsTabled : Obligations.SelectorFifteenCasesAreAsTabled := by
  intro s f hf hmode
  obtain ⟨hsub, hsubn⟩ := subtractionsWriteNoBorrowThenDifference
  obtain ⟨hshr, hshl⟩ := shiftsWriteTheLostBitThenTheShiftedSource
  have hsrc : ∀ x y : Reg, x = if s.cfg.shiftSource = .vy then y else x := fun x y => by simp [hmode]
  have hf256 : f < 256 := hf ▸ (s.readV VF).isLt
  refine ⟨fun r v hr hv => ⟨?_, ?_, ?_, ?_, ?_, ?_, ?_, ?_, ?_, ?_⟩, ?_, ?_, ?_, ?_, ?_⟩
  · exact FlagThenResult.of_destination_VF (addWritesCarryThenSum VF r s f v _ hf hv rfl) (by simp [hr]) hr hv
  · exact FlagThenResult.of_destination_ne (addWritesCarryThenSum r VF s v f _ hv hf rfl) hr (by simp [hr])
  · exact FlagThenResult.of_destination_VF (hsub VF r s f v _ hf hv rfl) (by simp [hr]) hr hv
  · exact FlagThenResult.of_destination_ne (hsub r VF s v f _ hv hf rfl) hr (by simp [hr])
  · exact FlagThenResult.of_destination_VF (hsubn VF r s f v _ hf hv rfl) (by simp [hr]) hr hv
  · exact FlagThenResult.of_destination_ne (hsubn r VF s v f _ hv hf rfl) hr (by simp [hr])
  · exact FlagThenResult.of_destination_VF (hshr VF r VF s f _ (hsrc _ _) hf rfl) (by rw [if_pos rfl]; omega) hr hv
  · exact FlagThenResult.of_destination_ne (hshr r VF r s v _ (hsrc _ _) hv rfl) hr (by rw [if_neg hr])
  · exact FlagThenResult.of_destination_VF (hshl VF r VF s f _ (hsrc _ _) hf rfl) (by rw [if_pos rfl]; omega) hr hv
  · exact FlagThenResult.of_destination_ne (hshl r VF r s v _ (hsrc _ _) hv rfl) hr (by rw [if_neg hr])
  · refine FlagThenResult.result (addWritesCarryThenSum VF VF s f f _ hf hf rfl) ?_
    simp only [if_true]
    split_ifs <;> omega
  · exact FlagThenResult.result (hsub VF VF s f f _ hf hf rfl) (by simp)
  · exact FlagThenResult.result (hsubn VF VF s f f _ hf hf rfl) (by simp)
  · exact FlagThenResult.result (hshr VF VF VF s f _ (hsrc _ _) hf rfl) (by rw [if_pos rfl]; omega)
  · exact FlagThenResult.result (hshl VF VF VF s f _ (hsrc _ _) hf rfl) (by rw [if_pos rfl]; omega)

end Sys2Proof.Machine
end

section
/-!
The index register and the memory instructions (`42_index_memory.md`, `20_memory.md` section 7). O36 to O42.
-/

namespace Sys2Proof.Machine

/-! ## The index register -/

theorem byteToWord_mul_five_toNat (b : Byte) : (byteToWord b * 5).toNat = b.toNat * 5 := by
  have hb := b.isLt
  rw [BitVec.toNat_mul, byteToWord_toNat]
  exact Nat.mod_eq_of_lt (show b.toNat * 5 < 2 ^ 16 by omega)

/-- Settles O36: each is one `State.setI`. -/
theorem indexLoadsWriteOnlyI : Obligations.IndexLoadsWriteOnlyI :=
  ⟨wordsDecodeTo_of_encode fun _ h => formatA_of_mask h, wordsDecodeTo_of_encode fun _ h => formatXI_of_maskX h,
    fun nnn s => ⟨_, rfl, zext16_toNat nnn, rfl, (s.setI_changesOnly _).advance⟩,
    fun x s => ⟨_, rfl, byteToWord_mul_five_toNat (s.readV x), rfl, (s.setI_changesOnly _).advance⟩⟩

theorem indexFlag_toNat (w : Word) (b : Byte) : (indexFlag w b).toNat = if w.toNat + b.toNat > 0xFFF then 1 else 0 := by
  simp [indexFlag]

/-- Settles O37: `State.setFlag`, then `State.setI` of the sum with the register as it then reads. -/
theorem addToIndexWritesTheRangeFlagThenI : Obligations.AddToIndexWritesTheRangeFlagThenI := by
  rintro x s v o rfl rfl
  refine ⟨_, rfl, ?flag, ?index, rfl, (((s.setFlag_changesOnly _).trans (State.setI_changesOnly _ _)).mono fun _ => Or.symm).advance⟩
  case flag => rw [State.advance_readV, State.setI_readV, State.readV_setFlag, if_pos rfl, indexFlag_toNat]
  case index =>
    rw [State.advance_I, State.setI_I, BitVec.toNat_add, byteToWord_toNat, State.readV_setFlag_toNat, indexFlag_toNat]
    rfl

/-! ## The memory instructions inside memory -/

theorem exec_ldBVx_of_in (x : Reg) {s : State} (h : s.I.toNat + 2 ≤ 0xFFF) :
    exec (.ldBVx x) s = .next (s.storeDigits (s.readV x)).advance :=
  State.checked_of_in (by simp only [memSize]; omega) _

theorem exec_ldMemVx_of_in {x : Reg} {s : State} (h : s.I.toNat + x.toNat ≤ 0xFFF) :
    exec (.ldMemVx x) s = .next (s.storeRegs (x.toNat + 1)).advance :=
  State.checked_of_in (by simp only [memSize]; omega) _

theorem exec_ldVxMem_of_in {x : Reg} {s : State} (h : s.I.toNat + x.toNat ≤ 0xFFF) :
    exec (.ldVxMem x) s = .next (s.loadRegs (x.toNat + 1)).advance :=
  State.checked_of_in (by simp only [memSize]; omega) _

theorem memoryFault_of_out {i : Instr} {s : State} (hi : 0 < accessLength i) (h : 0xFFF < s.I.toNat + accessLength i - 1) :
    memoryFault i s = some .memOutOfRange := (memoryFault_eq_some i s _).2 ⟨rfl, hi, h⟩

/-- Settles O38: the three stores of `State.storeDigits`, or the fault. -/
theorem digitsAreStoredHundredsFirst : Obligations.DigitsAreStoredHundredsFirst := by
  refine ⟨fun x s h => ?_, fun x s h => exec_faults (memoryFault_of_out (i := .ldBVx x) (Nat.succ_pos _) h)⟩
  refine ⟨_, exec_ldBVx_of_in x h, ?hundreds, ?tens, ?units, rfl, (s.storeDigits_changesOnly _).advance⟩
  case hundreds => simp [State.peek_storeDigits, State.addr]
  case tens => simp [State.peek_storeDigits, State.addr]
  case units => simp [State.peek_storeDigits, State.addr]

/-- The byte `FX55` stores for the register `k`. -/
theorem State.peek_storeRegs_addr (s : State) {n : Nat} {k : Reg} (hk : k.toNat < n) :
    (s.storeRegs n).peek (s.addr k.toNat) = s.readV k := by
  rw [State.peek_storeRegs, if_pos ⟨Nat.le_add_right _ _, Nat.add_lt_add_left hk _⟩, State.addr, Nat.add_sub_cancel_left,
    BitVec.ofNat_toNat, BitVec.setWidth_eq]

/-- Settles O39: `State.storeRegs`, or the fault. -/
theorem storeRegistersWritesTheRunFromI : Obligations.StoreRegistersWritesTheRunFromI := by
  refine ⟨fun x s h => ?_, fun x s h => exec_faults (memoryFault_of_out (i := .ldMemVx x) (Nat.succ_pos _) h)⟩
  refine ⟨_, exec_ldMemVx_of_in h, fun k hk => s.peek_storeRegs_addr (Nat.lt_succ_of_le hk), congrArg (· + 2) (s.storeRegs_pc _), ?_⟩
  exact ((s.storeRegs_changesOnly _).mono fun e ⟨k, hk, he⟩ => ⟨k, Nat.le_of_lt_succ hk, he⟩).advance

/-- The register `k` that `FX65` loads. -/
theorem State.readV_loadRegs_of_le (s : State) {x k : Reg} (hk : k.toNat ≤ x.toNat) :
    (s.loadRegs (x.toNat + 1)).readV k = s.peek (s.addr k.toNat) := by
  rw [State.readV_loadRegs s x.isLt, if_pos (Nat.lt_succ_of_le hk), State.addr]

/-- Settles O40: `State.loadRegs`, or the fault. -/
theorem loadRegistersReadsTheRunFromI : Obligations.LoadRegistersReadsTheRunFromI := by
  refine ⟨fun x s h => ?_, fun x s h => exec_faults (memoryFault_of_out (i := .ldVxMem x) (Nat.succ_pos _) h)⟩
  refine ⟨_, exec_ldVxMem_of_in h, fun k hk => s.readV_loadRegs_of_le hk, congrArg (· + 2) (s.loadRegs_pc _), ?_⟩
  exact ((s.loadRegs_changesOnly x.isLt).mono fun e ⟨k, hk, he⟩ => ⟨k, Nat.le_of_lt_succ hk, he⟩).advance

/-! ## A load and a fetch after a store -/

/-- Settles O41: the load reads at `I + k` the byte the store wrote there. -/
theorem loadAfterStoreGivesTheRegistersBack : Obligations.LoadAfterStoreGivesTheRegistersBack := by
  intro x s t u hin hstore hI hmem
  obtain rfl : (s.storeRegs (x.toNat + 1)).advance = t := Host.Outcome.next.inj ((exec_ldMemVx_of_in hin).symm.trans hstore)
  refine ⟨_, exec_ldVxMem_of_in (s := u) (hI ▸ hin), fun k hk => ?_⟩
  have haddr : u.addr k.toNat = s.addr k.toNat := congrArg (fun w : Word => w.toNat + k.toNat) hI
  calc (u.loadRegs (x.toNat + 1)).readV k
      = u.peek (u.addr k.toNat) := u.readV_loadRegs_of_le hk
    _ = (s.storeRegs (x.toNat + 1)).peek (s.addr k.toNat) := by rw [haddr, hmem, State.advance_peek]
    _ = s.readV k := s.peek_storeRegs_addr (Nat.lt_succ_of_le hk)

/-- The word fetched where `FX55` has just stored V0 and V1. -/
theorem State.fetch16_storeRegs_advance {s : State} {n : Nat} (hn : 1 < n) (hI : s.I = s.pc + 2) (hin : s.I.toNat ≤ 0xFFE) :
    (s.storeRegs n).advance.fetch16 = some (s.readV 0 ++ s.readV 1) := by
  have hpc : (s.storeRegs n).advance.pc = s.I := by rw [State.advance_pc, State.storeRegs_pc, hI]
  have h0 : (s.storeRegs n).peek s.I.toNat = s.readV 0 := s.peek_storeRegs_addr (k := 0) (Nat.lt_of_succ_lt hn)
  have h1 : (s.storeRegs n).peek (s.I.toNat + 1) = s.readV 1 := s.peek_storeRegs_addr (k := 1) hn
  rw [State.fetch16_of_le (hpc ▸ hin), hpc, State.advance_peek, State.advance_peek, h0, h1, wordOfBytes]

/-- Settles O42: the store completes with pc on the bytes it wrote, and the next fetch reads them. -/
theorem nextStepRunsTheWordJustStored : Obligations.NextStepRunsTheWordJustStored := by
  intro x s i hinit hfault hx hI hpc hin hd hi
  obtain ⟨op, hop, hd⟩ : ∃ op, s.fetch16 = some op ∧ decodeWord op = some (.ldMemVx x) := ⟨_, State.fetch16_of_le hpc, hd⟩
  have hstore : step s = .next ((s.setOpcode op).storeRegs (x.toNat + 1)).advance :=
    (step_of_decodes hinit hfault hop hd).trans (exec_ldMemVx_of_in (s := s.setOpcode op) hin)
  have hfetch := State.fetch16_storeRegs_advance (s := s.setOpcode op) (Nat.lt_succ_of_le hx) hI (by simp only [State.setOpcode_I]; omega)
  exact ⟨_, hstore, step_of_decodes (by simpa using hinit) (by simpa using hfault) hfetch hi⟩

end Sys2Proof.Machine
end

section
/-!
The display (`43_display.md`): clearing the screen, and what a draw inverts, collides with and leaves. O43 to O47.
-/

namespace Sys2Proof.Machine

/-! ## Clearing -/

/-- Settles O43: `State.clearScreen`, whose framebuffer is the cleared one whatever it was. -/
theorem clearScreenZeroesEveryPixel : Obligations.ClearScreenZeroesEveryPixel := by
  refine ⟨decodeWord_encode .cls, fun s t u ht hu => ?_,
    fun s => ⟨_, rfl, Framebuffer.get_clear, rfl, s.clearScreen_changesOnly.advance⟩⟩
  obtain rfl : s.clearScreen.advance = t := Host.Outcome.next.inj ht
  obtain rfl : s.clearScreen.advance.clearScreen.advance = u := Host.Outcome.next.inj hu
  rfl

/-! ## A completed draw -/

theorem exec_drw_of_in {x y : Reg} {n : Nibble} {s : State}
    (h : 0 < n.toNat → ¬(s.cfg.drawEdge = .fault ∧ BeyondGrid (s.readV x).toNat (s.readV y).toNat n.toNat) ∧
      s.I.toNat + n.toNat ≤ memSize) : exec (.drw x y n) s = .next (s.drewState x y n) := by
  rcases execDrw_cases x y n s with ⟨hn, hedge, hgrid, -⟩ | ⟨hn, -, hout, -⟩ | ⟨-, hs⟩
  · exact absurd ⟨hedge, hgrid⟩ (h hn).1
  · exact absurd hout (Nat.not_lt.2 (h hn).2)
  · exact hs

/-- A draw that records no fault completed inside its bounds. -/
theorem exec_drw_next {x y : Reg} {n : Nibble} {s t : State} (h : exec (.drw x y n) s = .next t) (ht : t.fault = none) :
    t = s.drewState x y n ∧
    (0 < n.toNat → ¬(s.cfg.drawEdge = .fault ∧ BeyondGrid (s.readV x).toNat (s.readV y).toNat n.toNat) ∧
      s.I.toNat + n.toNat ≤ memSize) := by
  rcases execDrw_cases x y n s with ⟨-, -, -, hs⟩ | ⟨-, -, -, hs⟩ | ⟨hin, hs⟩
  · obtain rfl := Host.Outcome.next.inj (h.symm.trans hs)
    exact nomatch ht
  · obtain rfl := Host.Outcome.next.inj (h.symm.trans hs)
    exact nomatch ht
  · exact ⟨Host.Outcome.next.inj (h.symm.trans hs), hin⟩

theorem State.setCanvas_changesOnly (s : State) (c : Canvas) :
    ChangesOnly s (s.setCanvas c) (fun e => e = .reg VF ∨ ∃ p, c.fb.get p ≠ s.fb.get p ∧ e = .pixel p) := by
  intro e he
  cases e with
  | reg r =>
    have hr : r ≠ VF := fun h => he (.inl (congrArg Elem.reg h))
    rw [Elem.same, State.setCanvas_readV, if_neg hr]
  | pixel p => exact not_not.1 fun hp => he (.inr ⟨p, hp, rfl⟩)
  | _ => rfl

/-- A draw inverts the targets of the set sprite bits. -/
theorem State.drewState_pixel_ne_iff (s : State) (x y : Reg) (n : Nibble) (p : Pixel) :
    (s.drewState x y n).pixel p ≠ s.pixel p ↔ Covered s (s.readV x).toNat (s.readV y).toNat n.toNat p := by
  obtain ⟨hpixel, -⟩ := s.drawRows_spec (s.readV x).toNat (s.readV y).toNat (Nat.le_of_lt n.isLt) { fb := s.fb, hit := false }
  exact hpixel p

theorem State.drewState_VF (s : State) (x y : Reg) (n : Nibble) :
    ∃ hit : Bool, (s.drewState x y n).readV VF = flag hit ∧
      (hit = true ↔ ∃ p, Covered s (s.readV x).toNat (s.readV y).toNat n.toNat p ∧ s.pixel p = true) := by
  obtain ⟨-, hhit⟩ := s.drawRows_spec (s.readV x).toNat (s.readV y).toNat (Nat.le_of_lt n.isLt) { fb := s.fb, hit := false }
  refine ⟨_, ?_, hhit.trans (by simp [State.pixel])⟩
  rw [State.drewState, State.advance_readV, State.setCanvas_readV, if_pos rfl]

/-- The flag after a draw: 1 exactly when a target was lit. -/
theorem State.drewState_VF_eq_one_iff (s : State) (x y : Reg) (n : Nibble) :
    (s.drewState x y n).readV VF = 1 ↔ ∃ p, Covered s (s.readV x).toNat (s.readV y).toNat n.toNat p ∧ s.pixel p = true := by
  obtain ⟨hit, hVF, hhit⟩ := s.drewState_VF x y n
  rw [hVF, ← hhit]
  exact flag_eq_one hit

/-- The flag after a draw: 0 when no target was lit. -/
theorem State.drewState_VF_eq_zero (s : State) (x y : Reg) (n : Nibble)
    (h : ∀ p, Covered s (s.readV x).toNat (s.readV y).toNat n.toNat p → s.pixel p = false) : (s.drewState x y n).readV VF = 0 := by
  obtain ⟨hit, hVF, hhit⟩ := s.drewState_VF x y n
  have hmiss : hit = false := by
    rw [← Bool.not_eq_true, hhit]
    rintro ⟨p, hp, hlit⟩
    exact Bool.false_ne_true ((h p hp).symm.trans hlit)
  exact hVF.trans ((flag_eq_zero hit).2 hmiss)

theorem State.drewState_changesOnly (s : State) (x y : Reg) (n : Nibble) :
    ChangesOnly s (s.drewState x y n)
      (fun e => e = .pc ∨ e = .reg VF ∨ ∃ p, Covered s (s.readV x).toNat (s.readV y).toNat n.toNat p ∧ e = .pixel p) := by
  refine ((s.setCanvas_changesOnly _).mono fun e he => he.imp_right ?_).advance
  rintro ⟨p, hp, rfl⟩
  exact ⟨p, (s.drewState_pixel_ne_iff x y n p).1 hp, rfl⟩

/-- Settles O44: inside its bounds the draw leaves `State.drewState`. -/
theorem drawInvertsExactlyTheTargetedPixels : Obligations.DrawInvertsExactlyTheTargetedPixels := by
  rintro x y n s x0 y0 rfl rfl hmem hgrid
  have hin : exec (.drw x y n) s = .next (s.drewState x y n) := by
    refine exec_drw_of_in fun hn => ⟨fun ⟨hedge, hbeyond⟩ => hgrid hn hedge hbeyond, ?_⟩
    have hlast := hmem hn
    simp only [memSize]
    omega
  exact ⟨_, hin, s.drewState_pixel_ne_iff x y n, (s.drewState_VF_eq_one_iff x y n).2, s.drewState_VF_eq_zero x y n, rfl,
    s.drewState_changesOnly x y n⟩

/-- Settles O45: the two alternatives of `faultOn_drw`. -/
theorem drawFaultsBeforeAnythingIsDrawn : Obligations.DrawFaultsBeforeAnythingIsDrawn :=
  fun x y n s hn => ⟨fun ⟨hedge, hgrid⟩ => exec_faults ((faultOn_drw x y n s _).2 ⟨hn, .inl ⟨rfl, hedge, hgrid⟩⟩),
    fun hgrid hout => exec_faults ((faultOn_drw x y n s _).2 ⟨hn, .inr ⟨rfl, hout, hgrid⟩⟩)⟩

/-! ## Drawing twice -/

/-- A draw at the same coordinates has the same targets, since a draw leaves `I`, memory and the mode. -/
theorem Covered.of_drewState (s : State) (x y : Reg) (n : Nibble) (x0 y0 k : Nat) (p : Pixel) :
    Covered (s.drewState x y n) x0 y0 k p ↔ Covered s x0 y0 k p := Iff.rfl

/-- Settles O46: both draws invert the same pixels, and the second finds a target lit where the first found it unlit. -/
theorem drawingTwiceRestoresTheFramebuffer : Obligations.DrawingTwiceRestoresTheFramebuffer := by
  intro x y n s t hs h ht hx hy
  obtain ⟨rfl, hin⟩ := exec_drw_next h ht
  have hfirst := s.drewState_pixel_ne_iff x y n
  have hsecond := (s.drewState x y n).drewState_pixel_ne_iff x y n
  have hflag := (s.drewState x y n).drewState_VF_eq_one_iff x y n
  rw [hx, hy] at hflag
  simp only [hx, hy, Covered.of_drewState] at hsecond hflag
  refine ⟨_, exec_drw_of_in (s := s.drewState x y n) (by rw [hx, hy]; exact hin), hs, ?_, hflag.trans ?_⟩
  · refine Framebuffer.ext_of_get fun p => ?_
    change ((s.drewState x y n).drewState x y n).pixel p = s.pixel p
    by_cases hp : Covered s (s.readV x).toNat (s.readV y).toNat n.toNat p
    · exact (Bool.eq_not_of_ne ((hsecond p).2 hp)).trans (Bool.not_eq_eq_eq_not.2 (Bool.eq_not_of_ne ((hfirst p).2 hp)))
    · exact (not_not.1 fun hne => hp ((hsecond p).1 hne)).trans (not_not.1 fun hne => hp ((hfirst p).1 hne))
  · refine exists_congr fun p => and_congr_right fun hp => ?_
    rw [Bool.eq_not_of_ne ((hfirst p).2 hp), Bool.not_eq_true']

/-! ## The three modes inside the grid -/

/-- The state on a core of another mode of `DRAW_EDGE`. -/
def State.withDrawEdge (s : State) (m : DrawEdge) : State := { s with cfg := { s.cfg with drawEdge := m } }

/-- On the grid the target of a sprite bit is its own pixel in every mode. -/
theorem target_of_on_grid (edge : DrawEdge) {x y : Nat} (hx : x < 64) (hy : y < 32) : target edge x y = gridPixel x y := by
  cases edge with
  | wrap => rw [target, Nat.mod_eq_of_lt hx, Nat.mod_eq_of_lt hy]
  | clip | fault => rfl

theorem drawRow_of_on_grid (edge edge' : DrawEdge) {x y n : Nat} (hx : x + n ≤ 64) (hy : y < 32) (row : Byte) (c : Canvas) :
    drawRow edge x y row n c = drawRow edge' x y row n c := by
  induction n with
  | zero => rfl
  | succ n ih =>
    have hcol : x + n < 64 := by omega
    rw [drawRow, drawRow, ih (by omega), target_of_on_grid edge hcol hy, target_of_on_grid edge' hcol hy]

theorem State.drawRows_withDrawEdge (s : State) (m : DrawEdge) {x y n : Nat} (hx : x ≤ 56) (hy : y + n ≤ 32) (c : Canvas) :
    (s.withDrawEdge m).drawRows x y n c = s.drawRows x y n c := by
  induction n with
  | zero => rfl
  | succ n ih =>
    rw [State.drawRows, State.drawRows, ih (by omega)]
    exact drawRow_of_on_grid m s.cfg.drawEdge (by omega) (by omega) _ _

theorem faultOn_drw_of_inside {x y : Reg} {n : Nibble} {s : State}
    (h : ¬BeyondGrid (s.readV x).toNat (s.readV y).toNat n.toNat) : faultOn (.drw x y n) s = memoryFault (.drw x y n) s :=
  if_neg fun ⟨hn, _, hoff⟩ => h ((offGrid_iff hn).1 hoff)

/-- Settles O47: inside the grid neither the fault nor the canvas of a draw depends on the mode. -/
theorem drawModesAgreeInsideTheGrid : Obligations.DrawModesAgreeInsideTheGrid := by
  intro x y n s t m hgrid h
  have hfault : faultOn (.drw x y n) (s.withDrawEdge m) = faultOn (.drw x y n) s :=
    (faultOn_drw_of_inside (s := s.withDrawEdge m) hgrid).trans (faultOn_drw_of_inside hgrid).symm
  rcases exec_next h with ⟨k, hk, rfl⟩ | ⟨hn, rfl⟩
  · exact exec_of_faultOn_some (hfault.trans hk)
  · have hcanvas := s.drawRows_withDrawEdge m (x := (s.readV x).toNat) (y := (s.readV y).toNat) (n := n.toNat)
      (by unfold BeyondGrid at hgrid; omega) (by unfold BeyondGrid at hgrid; omega) { fb := s.fb, hit := false }
    have hstate : completed (.drw x y n) (s.withDrawEdge m) = (completed (.drw x y n) s).withDrawEdge m :=
      congrArg (fun c => ((s.withDrawEdge m).setCanvas c).advance) hcanvas
    exact (exec_of_faultOn_none (hfault.trans hn)).trans (congrArg Host.Outcome.next hstate)

end Sys2Proof.Machine
end

section
/-!
The keypad and the timers (`44_keypad_timers.md`). O48 to O50.
-/

namespace Sys2Proof.Machine

/-! ## Key skips -/

theorem exec_skp_of_lt {x : Reg} {s : State} (h : (s.readV x).toNat < 16) :
    exec (.skp x) s = .next (s.skipIf s.key[(s.readV x).toNat]) := by
  simp [exec, execSkp, State.keyOf_of_le (Nat.le_of_lt_succ h)]

theorem exec_sknp_of_lt {x : Reg} {s : State} (h : (s.readV x).toNat < 16) :
    exec (.sknp x) s = .next (s.skipIf !s.key[(s.readV x).toNat]) := by
  simp [exec, execSknp, State.keyOf_of_le (Nat.le_of_lt_succ h)]

/-- Settles O48: `State.skipIf` on the key or its negation, or the fault. -/
theorem keySkipsTestTheKeyNamedByTheRegister : Obligations.KeySkipsTestTheKeyNamedByTheRegister := by
  refine ⟨fun x s h => ?_, fun x s h => ?_, ?_⟩
  · exact ⟨_, exec_skp_of_lt h, fun hkey => s.skipIf_pc_of_true hkey, fun hkey => s.skipIf_pc_of_false hkey, s.skipIf_changesOnly _⟩
  · exact ⟨_, exec_sknp_of_lt h, fun hkey => s.skipIf_pc_of_true (by rw [hkey]; rfl),
      fun hkey => s.skipIf_pc_of_false (by rw [hkey]; rfl), s.skipIf_changesOnly _⟩
  · rintro x s i (rfl | rfl) h
    · exact exec_faults (if_pos h)
    · exact exec_faults (if_pos h)

/-! ## Waiting for a key -/

theorem State.firstKey_eq_some {s : State} {j : Fin 16} (hj : s.key[j.val] = true)
    (hleast : ∀ k : Fin 16, k.val < j.val → s.key[k.val] = false) : s.firstKey = some j.val := by
  refine List.findIdx?_eq_some_iff_getElem.2 ⟨by simp, by simpa using hj, fun k hk => ?_⟩
  simpa using hleast ⟨k, hk.trans j.isLt⟩ hk

theorem State.firstKey_eq_none {s : State} (h : ∀ k : Fin 16, s.key[k.val] = false) : s.firstKey = none := by
  refine List.findIdx?_eq_none_iff.2 fun b hb => ?_
  obtain ⟨k, hk, rfl⟩ := List.mem_iff_getElem.1 hb
  simpa using h ⟨k, by simpa using hk⟩

/-- Settles O49: the least pressed key is `State.firstKey`. -/
theorem waitForKeyTakesTheLeastPressedKey : Obligations.WaitForKeyTakesTheLeastPressedKey := by
  refine ⟨fun x s j hj hleast => ?pressed, fun x s h => ?none⟩
  case pressed =>
    have hexec : exec (.ldVxK x) s = .next (s.writeV x (BitVec.ofNat 8 j.val)).advance := by
      simp [exec, execLdVxK, State.firstKey_eq_some hj hleast, done]
    refine ⟨_, hexec, ?_, rfl, (s.writeV_changesOnly x _).advance⟩
    rw [State.advance_readV, State.readV_writeV_self, BitVec.toNat_ofNat, Nat.mod_eq_of_lt (by omega)]
  case none => simp [exec, execLdVxK, State.firstKey_eq_none h]

/-! ## Timers -/

/-- Settles O50: `State.writeV` of DT, `State.setDT` and `State.setST`. -/
theorem timerMovesCopyOneByte : Obligations.TimerMovesCopyOneByte := by
  refine ⟨wordsDecodeTo_of_encode fun _ h => formatXI_of_maskX h, wordsDecodeTo_of_encode fun _ h => formatXI_of_maskX h,
    wordsDecodeTo_of_encode fun _ h => formatXI_of_maskX h,
    fun x s => ⟨_, rfl, s.readV_writeV_self x s.DT, rfl, (s.writeV_changesOnly x s.DT).advance⟩,
    fun x s => ⟨_, rfl, rfl, rfl, (s.setDT_changesOnly (s.readV x)).advance⟩,
    fun x s => ⟨_, rfl, rfl, ?sound, rfl, (s.setST_changesOnly (s.readV x)).advance⟩⟩
  case sound =>
    rw [State.soundActive_iff, State.advance_ST, State.setST_ST, Nat.pos_iff_ne_zero, BitVec.toNat_ne]
    rfl

end Sys2Proof.Machine
end
